-- ==== Sys2Proof/Word.lean ====
section
/-! DEFINITION. The word types of RSDC (spec 10_state.md R39, 20_memory.md R40, 30_encoding.md R60). -/

namespace Sys2Proof

/-- One word of the command port or of the response port: 32 bits (R60, R62). -/
abbrev Word := BitVec 32

/-- One row word of a pixel grid: 8 cells of 2 bits (R11, R12). -/
abbrev RowWord := BitVec 16

/-- A text byte or a palette component (R27, R68). -/
abbrev Byte := BitVec 8

/-- A packed colour, one LUT entry (R29). -/
abbrev Colour := BitVec 16

/-- A cell's colour index: 0 off, 1 colorA, 2 colorB, 3 colorC (R12). -/
abbrev ColourIndex := BitVec 2

/-- A word address of the grid RAM, 0 to 15 (R40). -/
abbrev GridAddr := BitVec 4

/-- A row number of a grid, 0 to 7 (R11). -/
abbrev RowIndex := BitVec 3

/-- The electrical levels of the five button pins BTN[4:0] at one moment (R61, R100). -/
abbrev Pins := BitVec 5

end Sys2Proof
end

