-- ==== Sys2Proof/Config.lean ====
section
/-! DEFINITION. What is fixed for one device: the source's constants (00_scope.md R3), the parameters the source leaves
open (R4, 93_implementation_defined.md U10) and the free values (U7, U11).

An `opaque` constant has no body: no proof can learn its value, so a statement about it holds whatever it is. -/

namespace Sys2Proof

/-- DEBOUNCE_N of R3: the debounce threshold, 4 matching samples. -/
def Config.debounceN : BitVec 3 := 4#3

/-- SWAP_WAIT_TICKS of R3: the ticks SWAP waits for in interrupt mode. -/
def Config.swapWaitTicks : BitVec 32 := 2#32

/-- LUT_DEFAULT of R4 and R29, palette entries 0 to 3 (the spec's decision D15). -/
def Config.lutDefault0 : Colour := 0x0000#16
/-- LUT_DEFAULT entry 1. -/
def Config.lutDefault1 : Colour := 0xF800#16
/-- LUT_DEFAULT entry 2. -/
def Config.lutDefault2 : Colour := 0x07E0#16
/-- LUT_DEFAULT entry 3. -/
def Config.lutDefault3 : Colour := 0xFFE0#16

/-- The parameters of R4 that are OPEN, "model argument": fixed for one device, never written by a step.
HOLD_TIME is left out: it is timing only and no rule depends on it (log entry 9). -/
structure Params where
  /-- TEXT_MAX, the overlay text's maximum length in bytes, 1 to 255. -/
  textMax      : Nat
  /-- BTN_ACTIVE_LOW: bit b = 1 when button b's pin is active-low. -/
  btnActiveLow : BitVec 5
  /-- CELL_W: the width of a cell's rectangle in panel pixels, at least 1 (R138). -/
  cellW        : Nat
  /-- CELL_H: the height of a cell's rectangle in panel pixels, at least 1 (R138). -/
  cellH        : Nat
  /-- ORIGIN_X: the panel column of cell (row 0, column 0). -/
  originX      : Nat
  /-- ORIGIN_Y: the panel row of cell (row 0, column 0). -/
  originY      : Nat
deriving DecidableEq, Repr

/-- The bounds R4 and R138 put on the open parameters. -/
def Params.wf (p : Params) : Bool :=
  decide (1 ≤ p.textMax) && decide (p.textMax ≤ 255) && decide (1 ≤ p.cellW) && decide (1 ≤ p.cellH)

/-- TEXT_MAX - 1, unknown (R4: 1 <= TEXT_MAX <= 255). -/
opaque Config.textMaxLessOne : Fin 255
/-- BTN_ACTIVE_LOW, unknown (R4, D10). -/
opaque Config.btnActiveLow : BitVec 5
/-- CELL_W - 1, unknown (R138, D14). -/
opaque Config.cellWLessOne : Nat
/-- CELL_H - 1, unknown (R138, D14). -/
opaque Config.cellHLessOne : Nat
/-- ORIGIN_X, unknown (R138, D14). -/
opaque Config.originX : Nat
/-- ORIGIN_Y, unknown (R138, D14). -/
opaque Config.originY : Nat

/-- The device's open parameters: unknown values inside the bounds of R4. -/
def Config.params : Params :=
  { textMax := Config.textMaxLessOne.val + 1
    btnActiveLow := Config.btnActiveLow
    cellW := Config.cellWLessOne + 1
    cellH := Config.cellHLessOne + 1
    originX := Config.originX
    originY := Config.originY }

/-- The pin levels of the n-th TICK whose levels the state's own list does not give: a free draw, "under no law"
(R100, U11; log entry 4). -/
opaque Config.freePins : Nat → Pins

/-- ROWSR at reset: unspecified (R35, U7, D29; log entry 2). -/
opaque Config.rowSrAtReset : BitVec 8
/-- COLSR at reset: unspecified (R35, U7, D29; log entry 2). -/
opaque Config.colSrAtReset : BitVec 16
/-- ROWLATCH at reset: unspecified (R35, U7, D29; log entry 2). -/
opaque Config.rowLatchAtReset : BitVec 8
/-- COLLATCH at reset: unspecified (R35, U7, D29; log entry 2). -/
opaque Config.colLatchAtReset : BitVec 16

end Sys2Proof
end

