-- ==== Sys2Proof/Syntax.lean ====
section
/-! DEFINITION. The 13 host commands of 30_encoding.md R65 (spec/opcode_table.json), one constructor a row.
TICK is an event, not a command, and has no row (R66). -/

namespace Sys2Proof

/-- The two backend variants (R31): K = 0 is the shift-register variant, K = 1 the framebuffer variant. -/
inductive Backend where
  | sr
  | fb
deriving DecidableEq, Repr

/-- One palette triplet of BEGIN's payload (R68): red, green, blue, 8 bits each. -/
structure Triplet where
  r  : Byte
  g  : Byte
  bl : Byte
deriving DecidableEq, Repr

/-- BEGIN's colour table: "exactly 4 triplets", one per palette index (R68). -/
structure ColourTable where
  t0 : Triplet
  t1 : Triplet
  t2 : Triplet
  t3 : Triplet
deriving DecidableEq, Repr

/-- A host command with its operands as they stand in its words (R63, R64, R67, R68). -/
inductive Instr where
  /-- BEGIN k, s [, table] (R161): backend, scheduler start, optional colour table. -/
  | begin (k : Backend) (startSched : Bool) (table : Option ColourTable)
  /-- GETBUF (R80). -/
  | getbuf
  /-- SETPIX x, y, c (R81): the X, Y and C fields; x and y are read as signed (R64). -/
  | setpix (x y : Byte) (c : ColourIndex)
  /-- CLEAR (R82). -/
  | clear
  /-- SWAP (R83). -/
  | swap
  /-- GETLVL b (R105): the B field, 0 to 7. -/
  | getlvl (b : BitVec 3)
  /-- GETEDGE b (R106): the B field, 0 to 7. -/
  | getedge (b : BitVec 3)
  /-- GETTICKS (R120). -/
  | getticks
  /-- REFRESH (R118). -/
  | refresh
  /-- SETTEXT "s" (R150): the text bytes, L is their number. -/
  | settext (text : List Byte)
  /-- APPTEXT "s" (R151). -/
  | apptext (text : List Byte)
  /-- LDROW a (R88). -/
  | ldrow (a : GridAddr)
  /-- STROW a, d (R89). -/
  | strow (a : GridAddr) (d : RowWord)
deriving DecidableEq, Repr

end Sys2Proof
end

