-- ==== Sys2Proof/Decode.lean ====
section
/-! DEFINITION. The decoder of the command port, total on every sequence of words, and after it the encoder, both written
from the formats of 30_encoding.md (R63 to R70). The block takes its command from the front of the sequence of words the
host has presented (R60): one header word and the payload words the header calls for (R67). -/

namespace Sys2Proof

/-- Why a command word is reserved (R69, R70). -/
inductive DecodeError where
  /-- The opcode is 0x0, 0xE or 0xF. -/
  | reservedOpcode
  /-- A must-be-zero bit of the header's format is 1. -/
  | headerMustBeZero
  /-- A must-be-zero bit of a payload word is 1. -/
  | payloadMustBeZero
deriving DecidableEq, Repr

/-- What a header word selects, before its payload is read. -/
inductive Header where
  /-- A command that is whole in its header word. -/
  | single (i : Instr)
  /-- BEGIN with T = 1: four payload words follow (R67). -/
  | table (k : Backend) (startSched : Bool)
  /-- SETTEXT (`append` false) or APPTEXT (`append` true) with L = `len`: ceil(L/4) payload words follow. -/
  | text (append : Bool) (len : Byte)
deriving DecidableEq, Repr

/-- What the decoder finds at the front of the presented words. -/
inductive Decoded where
  /-- A whole command, and the words after it. -/
  | instr (i : Instr) (rest : List Word)
  /-- No header yet, or a header whose payload has not all been presented. -/
  | incomplete
  /-- A reserved word (R70). -/
  | rejected (e : DecodeError)
deriving DecidableEq, Repr

/-! ## Fields of a header word (R63) -/

/-- OP, bits 31:28. -/
def opField (h : Word) : BitVec 4 := h.extractLsb' 28 4

/-- K = bit 0 of format M (R64): 0 = shift-register, 1 = framebuffer. -/
def backendOfBit (k : Bool) : Backend := if k then .fb else .sr

/-- The bit K of a backend (R31, R64). -/
def backendBit : Backend → Bool
  | .sr => false
  | .fb => true

/-- Format M: bits 27:3 = 0, T = bit 2, S = bit 1, K = bit 0. -/
def decodeM (h : Word) : Except DecodeError Header :=
  if h.extractLsb' 3 25 = 0#25 then
    if h.getLsbD 2 then .ok (.table (backendOfBit (h.getLsbD 0)) (h.getLsbD 1))
    else .ok (.single (.begin (backendOfBit (h.getLsbD 0)) (h.getLsbD 1) none))
  else .error .headerMustBeZero

/-- Format N: bits 27:0 = 0. -/
def decodeN (h : Word) (i : Instr) : Except DecodeError Header :=
  if h.extractLsb' 0 28 = 0#28 then .ok (.single i) else .error .headerMustBeZero

/-- Format P: bits 27:18 = 0, C = bits 17:16, Y = bits 15:8, X = bits 7:0. -/
def decodeP (h : Word) : Except DecodeError Header :=
  if h.extractLsb' 18 10 = 0#10 then
    .ok (.single (.setpix (h.extractLsb' 0 8) (h.extractLsb' 8 8) (h.extractLsb' 16 2)))
  else .error .headerMustBeZero

/-- Format B: bits 27:3 = 0, B = bits 2:0. -/
def decodeB (h : Word) (mk : BitVec 3 → Instr) : Except DecodeError Header :=
  if h.extractLsb' 3 25 = 0#25 then .ok (.single (mk (h.extractLsb' 0 3))) else .error .headerMustBeZero

/-- Format A: bits 27:4 = 0, A = bits 3:0. -/
def decodeA (h : Word) : Except DecodeError Header :=
  if h.extractLsb' 4 24 = 0#24 then .ok (.single (.ldrow (h.extractLsb' 0 4))) else .error .headerMustBeZero

/-- Format W: bits 27:20 = 0, A = bits 19:16, D = bits 15:0. -/
def decodeW (h : Word) : Except DecodeError Header :=
  if h.extractLsb' 20 8 = 0#8 then .ok (.single (.strow (h.extractLsb' 16 4) (h.extractLsb' 0 16)))
  else .error .headerMustBeZero

/-- Format T: bits 27:8 = 0, L = bits 7:0. -/
def decodeT (h : Word) (append : Bool) : Except DecodeError Header :=
  if h.extractLsb' 8 20 = 0#20 then .ok (.text append (h.extractLsb' 0 8)) else .error .headerMustBeZero

/-- The opcode map of R65; 0x0, 0xE and 0xF are reserved (R70). -/
def decodeHeader (h : Word) : Except DecodeError Header :=
  match (opField h).toNat with
  | 0x1 => decodeM h
  | 0x2 => decodeN h .getbuf
  | 0x3 => decodeP h
  | 0x4 => decodeN h .clear
  | 0x5 => decodeN h .swap
  | 0x6 => decodeB h .getlvl
  | 0x7 => decodeB h .getedge
  | 0x8 => decodeN h .getticks
  | 0x9 => decodeN h .refresh
  | 0xA => decodeT h false
  | 0xB => decodeT h true
  | 0xC => decodeA h
  | 0xD => decodeW h
  | _ => .error .reservedOpcode

/-- A command's mnemonic, as R65's table spells it. -/
def Instr.mnemonic : Instr → String
  | .begin _ _ _ => "BEGIN"
  | .getbuf => "GETBUF"
  | .setpix _ _ _ => "SETPIX"
  | .clear => "CLEAR"
  | .swap => "SWAP"
  | .getlvl _ => "GETLVL"
  | .getedge _ => "GETEDGE"
  | .getticks => "GETTICKS"
  | .refresh => "REFRESH"
  | .settext _ => "SETTEXT"
  | .apptext _ => "APPTEXT"
  | .ldrow _ => "LDROW"
  | .strow _ _ => "STROW"

/-- The command a header selects, by its mnemonic. -/
def Header.mnemonic : Header → String
  | .single i => i.mnemonic
  | .table _ _ => "BEGIN"
  | .text append _ => if append then "APPTEXT" else "SETTEXT"

/-- The rows of R65's table: mnemonic, match, mask. The decoder is not written from it (it checks R63's fields); that the two
agree is a statement about it. -/
def opcodeTable : List (String × Word × Word) :=
  [("BEGIN", 0x10000000#32, 0xFFFFFFF8#32),
   ("GETBUF", 0x20000000#32, 0xFFFFFFFF#32),
   ("SETPIX", 0x30000000#32, 0xFFFC0000#32),
   ("CLEAR", 0x40000000#32, 0xFFFFFFFF#32),
   ("SWAP", 0x50000000#32, 0xFFFFFFFF#32),
   ("GETLVL", 0x60000000#32, 0xFFFFFFF8#32),
   ("GETEDGE", 0x70000000#32, 0xFFFFFFF8#32),
   ("GETTICKS", 0x80000000#32, 0xFFFFFFFF#32),
   ("REFRESH", 0x90000000#32, 0xFFFFFFFF#32),
   ("SETTEXT", 0xA0000000#32, 0xFFFFFF00#32),
   ("APPTEXT", 0xB0000000#32, 0xFFFFFF00#32),
   ("LDROW", 0xC0000000#32, 0xFFFFFFF0#32),
   ("STROW", 0xD0000000#32, 0xFFF00000#32)]

/-- How many payload words follow the header (R67): 4 for a colour table, ceil(L/4) for a text, else none. -/
def Header.payloadWords : Header → Nat
  | .single _ => 0
  | .table _ _ => 4
  | .text _ len => (len.toNat + 3) / 4

/-! ## Payload words (R68) -/

/-- A palette entry: bits 31:24 = 0, R = bits 23:16, G = bits 15:8, Bl = bits 7:0. -/
def tripletOfWord (w : Word) : Option Triplet :=
  if w.extractLsb' 24 8 = 0#8 then
    some { r := w.extractLsb' 16 8, g := w.extractLsb' 8 8, bl := w.extractLsb' 0 8 }
  else none

/-- The four bytes of a text payload word, byte 4j first (R68, R43). -/
def bytesOfWord (w : Word) : List Byte :=
  [w.extractLsb' 0 8, w.extractLsb' 8 8, w.extractLsb' 16 8, w.extractLsb' 24 8]

/-- The bytes of a text payload, in the order of the text. -/
def bytesOfWords : List Word → List Byte
  | [] => []
  | w :: ws => bytesOfWord w ++ bytesOfWords ws

/-- The text of L bytes; "the unused high bytes of the last payload word are zero". -/
def textOfPayload (len : Nat) (ws : List Word) : Option (List Byte) :=
  if ((bytesOfWords ws).drop len).all (fun b => b == 0#8) then some ((bytesOfWords ws).take len) else none

/-- The colour table of BEGIN's four payload words; none where a must-be-zero bit is 1. -/
def tableOfPayload : List Word → Option ColourTable
  | [w0, w1, w2, w3] =>
    match tripletOfWord w0, tripletOfWord w1, tripletOfWord w2, tripletOfWord w3 with
    | some t0, some t1, some t2, some t3 => some { t0 := t0, t1 := t1, t2 := t2, t3 := t3 }
    | _, _, _, _ => none
  | _ => none

/-- The command of a header and its payload; none where a must-be-zero bit of the payload is 1. -/
def assemble : Header → List Word → Option Instr
  | .single i, _ => some i
  | .table k startSched, ws =>
    match tableOfPayload ws with
    | some t => some (.begin k startSched (some t))
    | none => none
  | .text append len, ws =>
    match textOfPayload len.toNat ws with
    | some text => some (if append then .apptext text else .settext text)
    | none => none

/-- Read the command at the front of the presented words: "A decoder reads the header, computes the payload count from
`T` or `L`, and consumes that many following words as payload without interpreting them as headers" (R67). -/
def decode : List Word → Decoded
  | [] => .incomplete
  | h :: rest =>
    match decodeHeader h with
    | .error e => .rejected e
    | .ok hd =>
      if rest.length < hd.payloadWords then .incomplete
      else
        match assemble hd (rest.take hd.payloadWords) with
        | some i => .instr i (rest.drop hd.payloadWords)
        | none => .rejected .payloadMustBeZero

/-! ## The encoder (R63, R65, R68, R72) -/

/-- Format N. -/
def headerN (op : BitVec 4) : Word := op ++ 0#28
/-- Format M. -/
def headerM (t s k : Bool) : Word := 0x1#4 ++ 0#25 ++ BitVec.ofBool t ++ BitVec.ofBool s ++ BitVec.ofBool k
/-- Format P. -/
def headerP (c : ColourIndex) (y x : Byte) : Word := 0x3#4 ++ 0#10 ++ c ++ y ++ x
/-- Format B. -/
def headerB (op : BitVec 4) (b : BitVec 3) : Word := op ++ 0#25 ++ b
/-- Format A. -/
def headerA (a : GridAddr) : Word := 0xC#4 ++ 0#24 ++ a
/-- Format W. -/
def headerW (a : GridAddr) (d : RowWord) : Word := 0xD#4 ++ 0#8 ++ a ++ d
/-- Format T. -/
def headerT (op : BitVec 4) (len : Byte) : Word := op ++ 0#20 ++ len

/-- A palette entry's payload word (R68). -/
def wordOfTriplet (t : Triplet) : Word := 0#8 ++ t.r ++ t.g ++ t.bl

/-- Four text bytes as a payload word, the first in the low byte (R68). -/
def wordOfBytes (b0 b1 b2 b3 : Byte) : Word := b3 ++ b2 ++ b1 ++ b0

/-- A text's payload words: four bytes a word, the unused high bytes of the last word zero (R68). -/
def wordsOfText : List Byte → List Word
  | [] => []
  | [b0] => [wordOfBytes b0 0#8 0#8 0#8]
  | [b0, b1] => [wordOfBytes b0 b1 0#8 0#8]
  | [b0, b1, b2] => [wordOfBytes b0 b1 b2 0#8]
  | b0 :: b1 :: b2 :: b3 :: bs => wordOfBytes b0 b1 b2 b3 :: wordsOfText bs

/-- The words of a command (R72). -/
def encode : Instr → List Word
  | .begin k startSched none => [headerM false startSched (backendBit k)]
  | .begin k startSched (some t) =>
    [headerM true startSched (backendBit k), wordOfTriplet t.t0, wordOfTriplet t.t1, wordOfTriplet t.t2, wordOfTriplet t.t3]
  | .getbuf => [headerN 0x2#4]
  | .setpix x y c => [headerP c y x]
  | .clear => [headerN 0x4#4]
  | .swap => [headerN 0x5#4]
  | .getlvl b => [headerB 0x6#4 b]
  | .getedge b => [headerB 0x7#4 b]
  | .getticks => [headerN 0x8#4]
  | .refresh => [headerN 0x9#4]
  | .settext text => headerT 0xA#4 (BitVec.ofNat 8 text.length) :: wordsOfText text
  | .apptext text => headerT 0xB#4 (BitVec.ofNat 8 text.length) :: wordsOfText text
  | .ldrow a => [headerA a]
  | .strow a d => [headerW a d]

/-! ## The opcode table's numbering of an instruction's bits -/

/-- Word j of an instruction whose `nbits` lowest bits are `w`, bit 0 the least significant bit of the first word; every bit
from `nbits` on is 0. -/
def tableWord (nbits w j : Nat) : Word := BitVec.ofNat 32 ((w % 2 ^ nbits) / 2 ^ (32 * j))

/-- How many payload words the header word calls for; 0 where it is reserved. -/
def payloadWordsOf (h : Word) : Nat :=
  match decodeHeader h with
  | .ok hd => hd.payloadWords
  | .error _ => 0

/-- Words j, j+1, … of the instruction, `n` of them. -/
def tableWordsFrom (nbits w j : Nat) : Nat → List Word
  | 0 => []
  | n + 1 => tableWord nbits w j :: tableWordsFrom nbits w (j + 1) n

/-- The words of that instruction as a host presents them: its header, and as many payload words as the header calls for. -/
def tableWords (nbits w : Nat) : List Word :=
  tableWord nbits w 0 :: tableWordsFrom nbits w 1 (payloadWordsOf (tableWord nbits w 0))

/-- The instruction the decoder reads from a row's bits; none where it refuses. -/
def decodeTableWord (nbits w : Nat) : Option Instr :=
  match decode (tableWords nbits w) with
  | .instr i _ => some i
  | .incomplete => none
  | .rejected _ => none

end Sys2Proof
end

