-- ==== Sys2Proof/Machine/State.lean ====
section
/-! DEFINITION. The state of RSDC as plain data: every register of 10_state.md R39 under its own name, the two ports'
queues (30_encoding.md R60 to R62) and the environment's schedule (20_memory.md R48); the reasons a step can stop; reset. -/

namespace Sys2Proof.Machine

/-- One value for each of the five buttons, index 0 to 4 (R21 to R26). -/
structure PerButton (α : Type) where
  b0 : α
  b1 : α
  b2 : α
  b3 : α
  b4 : α
deriving DecidableEq, Repr

/-- The 4-entry colour lookup table LUT[0..3] (R29). -/
structure Lut where
  e0 : Colour
  e1 : Colour
  e2 : Colour
  e3 : Colour
deriving DecidableEq, Repr

/-- HPHASE, the host phase (R18). -/
inductive HPhase where
  | idle
  | swapWait
deriving DecidableEq, Repr

/-- The five serial lines of the shift-register backend (R36). -/
inductive Line where
  | colData
  | colClk
  | rowData
  | rowClk
  | latch
deriving DecidableEq, Repr

/-- The display side of the shift-register backend: the two chains, their latches, the five lines (R35, R36). -/
structure SerialPort where
  /-- ROWSR: the row chain. -/
  rowSr    : BitVec 8
  /-- COLSR: the column chain. -/
  colSr    : BitVec 16
  /-- ROWLATCH: the latched row lines, active-high. -/
  rowLatch : BitVec 8
  /-- COLLATCH: the latched column lines, active-low. -/
  colLatch : BitVec 16
  /-- COL_DATA. -/
  colData  : Bool
  /-- COL_CLK. -/
  colClk   : Bool
  /-- ROW_DATA. -/
  rowData  : Bool
  /-- ROW_CLK. -/
  rowClk   : Bool
  /-- LATCH. -/
  latch    : Bool
deriving DecidableEq, Repr

/-- The event alphabet of the output trace (R130). -/
inductive Event where
  /-- PIN(line, v): the serial line is driven to v. -/
  | pin (line : Line) (v : Bool)
  /-- FILLRECT(x0, y0, w, h, colour). -/
  | fillRect (x0 y0 w h : Nat) (colour : Colour)
  /-- OVERLAY(text): the text region is cleared and the text drawn. -/
  | overlay (text : List Byte)
  /-- HOLD: REFRESH's idle of HOLD_TIME. -/
  | hold
deriving DecidableEq, Repr

/-- One entry of the environment's schedule: who moves, and whether one more tick request arrives while that move holds
ticks off (a host command inside its critical section, or a running TICK; R34, R173). A held TICK is no entry: its mark stands
in `State.heldMarks`. -/
inductive Turn where
  /-- The host moves: it issues its next command, or goes on waiting in SWAP. -/
  | host (requestMeanwhile : Bool)
  /-- A tick request arrives on the tick port (R61, R172). -/
  | tick (requestMeanwhile : Bool)
deriving DecidableEq, Repr

/-- Whether the tick source goes on after the schedule's last entry (R176, R203; log entry 3). -/
inductive TickSource where
  /-- "While SCHED_EN = 1 the tick source keeps ticking" (R176): what a termination claim assumes. -/
  | keepsTicking
  /-- The tick source has stopped: a SWAP that waits then never completes (R203, U9). -/
  | stopped
deriving DecidableEq, Repr

/-- The grid RAM's storage: (word address, row word) pairs. The smallest addressable unit is the 16-bit row word, "there
are no byte addresses" (R40). Canonical form: addresses strictly rising and below 16, no entry equal to 0x0000, which is what
an unlisted address reads as (the reset contents of R11). -/
abbrev Memory := List (Nat × RowWord)

/-- The canonical form of a memory whose addresses are all at least `lo`. -/
def Memory.wfFrom : Nat → Memory → Bool
  | _, [] => true
  | lo, (a, v) :: m => decide (lo ≤ a) && decide (a < 16) && v != 0#16 && Memory.wfFrom (a + 1) m

/-- The memory is in its canonical form. -/
def Memory.wf (m : Memory) : Bool := Memory.wfFrom 0 m

/-- The state of the block, of its ports and of the environment's schedule. -/
structure State where
  /-- GRID[0..1][0..7], the 16-word grid RAM (R11, R40). -/
  grid       : Memory
  /-- FRONT: the number of the front grid (R13). -/
  front      : BitVec 1
  /-- SCAN: the row the scheduler will refresh next (R15). -/
  scan       : RowIndex
  /-- BTNCUR: the button the next TICK samples (R17). -/
  btnCur     : Fin 5
  /-- HPHASE (R18). -/
  hphase     : HPhase
  /-- TICKS, the TickCounter (R19). -/
  ticks      : BitVec 32
  /-- LASTTICKS, the count captured by the last SWAP (R20). -/
  lastTicks  : BitVec 32
  /-- RAW[b]: the previously observed raw level, 1 = pressed (R21). -/
  raw        : PerButton Bool
  /-- CNT[b]: the debounce counter (R22). -/
  cnt        : PerButton (BitVec 3)
  /-- DEB[b]: the debounced level (R23). -/
  deb        : PerButton Bool
  /-- EDGE[b]: "went down since last swap", the scheduler's side (R24). -/
  edge       : PerButton Bool
  /-- APP_LEVEL[b]: the application-visible level (R25). -/
  appLevel   : PerButton Bool
  /-- APP_EDGE[b]: the "last-loop" view of the edge flags (R26). -/
  appEdge    : PerButton Bool
  /-- TEXT_CUR, the current overlay text (R27). -/
  textCur    : List Byte
  /-- TEXT_SHADOW, the last-rendered text (R28). -/
  textShadow : List Byte
  /-- LUT[0..3] (R29). -/
  lut        : Lut
  /-- INIT: BEGIN has executed (R30). -/
  init       : Bool
  /-- BACKEND (R31). -/
  backend    : Backend
  /-- SCHED_EN: the timer tick is running (R32). -/
  schedEn    : Bool
  /-- IMASK: the host is inside a critical section (R33). -/
  imask      : Bool
  /-- TPEND: a tick request is held (R34). -/
  tpend      : Bool
  /-- The shift-register chains, latches and lines (R35, R36). -/
  sr         : SerialPort
  /-- OUT, the output trace, oldest event first (R37). -/
  out        : List Event
  /-- The response port: the words delivered so far, oldest first (R62). -/
  resp       : List Word
  /-- The command port: the words the host has presented and the block has not taken, oldest first (R60). -/
  cmd        : List Word
  /-- The environment's schedule: the moves to come (R48, U12; log entry 3). -/
  turns      : List Turn
  /-- For each held TICK to come, whether one more tick request arrives while it runs; after the list's end none does (R34,
  R173; log entry 7). -/
  heldMarks  : List Bool
  /-- Whether the tick source goes on after the schedule's end (R176, R203; log entry 3). -/
  tickSource : TickSource
  /-- The environment's pin levels for the TICKs to come, oldest first (R100, U11; log entry 4). -/
  pinDraws   : List Pins
  /-- How many TICKs have drawn their pins from `Config.freePins` (the model's own counter; log entry 4). -/
  draws      : Nat
  /-- The device's open parameters (R4); no step writes them (log entry 5). -/
  params     : Params
deriving DecidableEq, Repr

/-- The block has no fault mechanism: "The block raises no synchronous exception, has no cause codes" (R170), and
93_implementation_defined.md says "nothing here is `fault`". So there is no reason to fault. -/
inductive Fault where
deriving DecidableEq, Repr

/-- The cases the spec gives the treatment `refuse`: "the source gives the case no meaning; the model gives it none
either" (R6). Each is safe: nothing can be proved of what the hardware does there. -/
inductive Refusal where
  /-- An instruction whose meaning is not written yet. Raised by an arm of `exec` only. Safe. -/
  | notModelled (mnemonic : String)
  /-- A command other than BEGIN with INIT = 0 (R160, U5). Raised by every meaning but BEGIN's. Safe. -/
  | beforeBegin
  /-- BEGIN with INIT = 1 (R160, U5). Raised by BEGIN. Safe. -/
  | secondBegin
  /-- A button index of 5, 6 or 7 (R71, U2). Raised by GETLVL and GETEDGE. Safe. -/
  | buttonIndex
  /-- REFRESH with SCHED_EN = 1 (R118, U4). Raised by REFRESH. Safe. -/
  | refreshWhileScheduled
  /-- A reserved command word (R70, U6). Raised by the command port. Safe. -/
  | reservedWord (e : DecodeError)
deriving DecidableEq, Repr

/-- The same value for every button. -/
def PerButton.all {α : Type} (x : α) : PerButton α := { b0 := x, b1 := x, b2 := x, b3 := x, b4 := x }

/-- The state right after power-on, the table of R39. The chains and latches are unspecified (R35, log entry 2). No
command has been presented, nothing is scheduled, nothing has been emitted. -/
def State.reset : State :=
  { grid := []
    front := 0#1
    scan := 0#3
    btnCur := 0
    hphase := .idle
    ticks := 0#32
    lastTicks := 0#32
    raw := .all false
    cnt := .all 0#3
    deb := .all false
    edge := .all false
    appLevel := .all false
    appEdge := .all false
    textCur := []
    textShadow := []
    lut := { e0 := Config.lutDefault0, e1 := Config.lutDefault1, e2 := Config.lutDefault2, e3 := Config.lutDefault3 }
    init := false
    backend := .sr
    schedEn := false
    imask := false
    tpend := false
    sr :=
      { rowSr := Config.rowSrAtReset
        colSr := Config.colSrAtReset
        rowLatch := Config.rowLatchAtReset
        colLatch := Config.colLatchAtReset
        colData := false
        colClk := false
        rowData := false
        rowClk := false
        latch := false }
    out := []
    resp := []
    cmd := []
    turns := []
    heldMarks := []
    tickSource := .keepsTicking
    pinDraws := []
    draws := 0
    params := Config.params }

end Sys2Proof.Machine
end

