-- ==== Sys2Proof/Machine/Operands.lean ====
section
/-! DEFINITION. The operand forms: pixel coordinates, the cell lanes of a row word, button indexes, palette entries
(10_state.md R12, R29; 30_encoding.md R64; 45_init.md R162). -/

namespace Sys2Proof.Machine

/-! ## Arrays of the state -/

/-- ARR[b] of a per-button array (R6). -/
def PerButton.get {α : Type} (p : PerButton α) (b : Fin 5) : α :=
  match b with
  | 0 => p.b0
  | 1 => p.b1
  | 2 => p.b2
  | 3 => p.b3
  | 4 => p.b4

/-- ARR[b] <- x of a per-button array (R6). -/
def PerButton.set {α : Type} (p : PerButton α) (b : Fin 5) (x : α) : PerButton α :=
  match b with
  | 0 => { p with b0 := x }
  | 1 => { p with b1 := x }
  | 2 => { p with b2 := x }
  | 3 => { p with b3 := x }
  | 4 => { p with b4 := x }

/-- LUT[i] (R29). -/
def Lut.get (l : Lut) (i : ColourIndex) : Colour :=
  match i.toNat with
  | 0 => l.e0
  | 1 => l.e1
  | 2 => l.e2
  | _ => l.e3

/-! ## Pixel coordinates and cells -/

/-- `0 ≤ x,y < 8` with x = sext_8(X) and y = sext_8(Y) (R64, R81). -/
def onGrid (x y : Byte) : Bool :=
  decide (0 ≤ x.toInt ∧ x.toInt < 8 ∧ 0 ≤ y.toInt ∧ y.toInt < 8)

/-- The row number of a y that is on the grid: its three low bits. -/
def rowOf (y : Byte) : RowIndex := y.extractLsb' 0 3

/-- cell(w, c) = w[2c+1:2c] (R12). -/
def cell (w : RowWord) (c : Nat) : ColourIndex := w.extractLsb' (2 * c) 2

/-- SETPIX's new row word: (w & ~(0b11 << (2*x))) | (c << (2*x)) (R81). -/
def setCell (w : RowWord) (x : Nat) (c : ColourIndex) : RowWord :=
  (w &&& ~~~(3#16 <<< (2 * x))) ||| (c.setWidth 16 <<< (2 * x))

/-! ## Buttons -/

/-- A B field as a button: 0 to 4, else outside the "declared enumeration" (R64, R71). -/
def buttonOf (b : BitVec 3) : Option (Fin 5) :=
  if h : b.toNat < 5 then some ⟨b.toNat, h⟩ else none

/-- The normalised level of button b: level = BTN[b] ^ BTN_ACTIVE_LOW[b], 1 = pressed (R100). -/
def normalise (activeLow : BitVec 5) (pins : Pins) (b : Fin 5) : Bool :=
  pins.getLsbD b.val ^^ activeLow.getLsbD b.val

/-- (BTNCUR + 1) mod 5 (R17). -/
def nextButton (b : Fin 5) : Fin 5 :=
  match b with
  | 0 => 1
  | 1 => 2
  | 2 => 3
  | 3 => 4
  | 4 => 0

/-! ## Palette -/

/-- PACK(R, G, Bl) = ((R >> 3) << 11) | ((G >> 2) << 5) | (Bl >> 3), 16 bits (R162). -/
def pack (t : Triplet) : Colour :=
  ((t.r.setWidth 16 >>> 3) <<< 11) ||| ((t.g.setWidth 16 >>> 2) <<< 5) ||| (t.bl.setWidth 16 >>> 3)

/-- for i in 0..3: LUT[i] <- PACK(R_i, G_i, Bl_i) (R161). -/
def packTable (t : ColourTable) : Lut :=
  { e0 := pack t.t0, e1 := pack t.t1, e2 := pack t.t2, e3 := pack t.t3 }

end Sys2Proof.Machine
end

