-- ==== Sys2Proof/Machine/Ops.lean ====
section
/-! DEFINITION. The shared operations: the grid RAM (20_memory.md R40, R41), the ports (30_encoding.md R62), the critical
section (R46), the precondition of every command (45_init.md R160), and the entry of the tick interrupt: who may tick and what
becomes of a request (60_exceptions.md R173, R175). The block raises no exception (R170), so there is no exception entry; the
tick's handler is `tick` of Machine/Scheduler.lean and it returns by ending (R177). -/

namespace Sys2Proof.Machine

/-! ## The grid RAM -/

/-- The word at an address; an unlisted address reads as 0x0000. -/
def Memory.read : Memory → Nat → RowWord
  | [], _ => 0#16
  | (k, w) :: m, a => if k = a then w else Memory.read m a

/-- Put an entry where the rising order wants it. -/
def Memory.insert : Memory → Nat → RowWord → Memory
  | [], a, v => [(a, v)]
  | (k, w) :: m, a, v => if a < k then (a, v) :: (k, w) :: m else (k, w) :: Memory.insert m a v

/-- The memory without an address's entry. -/
def Memory.erase : Memory → Nat → Memory
  | [], _ => []
  | (k, w) :: m, a => if k = a then Memory.erase m a else (k, w) :: Memory.erase m a

/-- Replace the word at an address, keeping the canonical form: 0x0000 is not listed. -/
def Memory.write (m : Memory) (a : Nat) (v : RowWord) : Memory :=
  if v = 0#16 then m.erase a else (m.erase a).insert a v

/-- MemRead(a) (R41). -/
def memRead (s : State) (a : GridAddr) : RowWord := s.grid.read a.toNat

/-- MemWrite(a, v) (R41). -/
def memWrite (s : State) (a : GridAddr) (v : RowWord) : State := { s with grid := s.grid.write a.toNat v }

/-- The address of row r of grid g: 8*g + r, that is {g, r[2:0]} (R40, R131). -/
def rowAddr (g : BitVec 1) (r : RowIndex) : GridAddr := g ++ r

/-- BACK = 1 - FRONT (R14). -/
def State.back (s : State) : BitVec 1 := ~~~s.front

/-- FRONTBASE + r (R14). -/
def frontAddr (s : State) (r : RowIndex) : GridAddr := rowAddr s.front r

/-- BACKBASE + r (R14). -/
def backAddr (s : State) (r : RowIndex) : GridAddr := rowAddr s.back r

/-- The rows 0 to 7 of a grid, in ascending order. -/
def rows : List RowIndex := [0#3, 1#3, 2#3, 3#3, 4#3, 5#3, 6#3, 7#3]

/-! ## Ports and trace -/

/-- emit: append events to the output trace (R6, R130). -/
def emit (es : List Event) (s : State) : State := { s with out := s.out ++ es }

/-- respond v: deliver one 32-bit word on the response port (R6, R62). -/
def respond (v : Word) (s : State) : State := { s with resp := s.resp ++ [v] }

/-! ## The tick interrupt's enable, mask and pending bit -/

/-- The timer is running and requests ticks: BEGIN has started it (R32, R172). -/
def timerRunning (s : State) : Bool := s.init && s.schedEn

/-- A TICK step is enabled: INIT = 1, SCHED_EN = 1, IMASK = 0 (R115, R175). -/
def tickEnabled (s : State) : Bool := timerRunning s && !s.imask

/-- A tick request that cannot be served now "is held in TPEND ... a second request while TPEND = 1 is lost" (R173).
A timer that is not running makes no request (R172). -/
def holdRequest (s : State) : State := if timerRunning s then { s with tpend := true } else s

/-- The request, if any, that arrived while a step held ticks off. -/
def holdRequestIf (arrived : Bool) (s : State) : State := if arrived then holdRequest s else s

/-- Whether a request arrives while the next held TICK runs: the environment's next mark (R173; log entry 7). -/
def heldMark (s : State) : Bool := s.heldMarks.headD false

/-- The mark is used up. -/
def popHeldMark (s : State) : State := { s with heldMarks := s.heldMarks.tail }

/-- atomic { S }: IMASK <- 1; S; IMASK <- 0 (R46). -/
def atomic (body : State → State) (s : State) : State := { body { s with imask := true } with imask := false }

/-- The commands that contain a critical section: "SWAP ..., SETTEXT and APPTEXT" (R46). -/
def hasCriticalSection : Instr → Bool
  | .begin _ _ _ => false
  | .getbuf => false
  | .setpix _ _ _ => false
  | .clear => false
  | .swap => true
  | .getlvl _ => false
  | .getedge _ => false
  | .getticks => false
  | .refresh => false
  | .settext _ => true
  | .apptext _ => true
  | .ldrow _ => false
  | .strow _ _ => false

/-! ## The precondition INIT = 1 -/

/-- "Every command other than BEGIN has the precondition INIT = 1", else refuse (R160, U5). -/
def afterBegin (body : State → Host.Outcome State Fault Refusal) (s : State) : Host.Outcome State Fault Refusal :=
  if s.init then body s else .refused .beforeBegin

/-! ## The pins a TICK samples -/

/-- The pin levels of the next TICK: the environment's next draw, else a free one (R100, U11). -/
def pinsNow (s : State) : Pins :=
  match s.pinDraws with
  | p :: _ => p
  | [] => Config.freePins s.draws

/-- The draw is used up. -/
def popPins (s : State) : State :=
  match s.pinDraws with
  | _ :: ps => { s with pinDraws := ps }
  | [] => { s with draws := s.draws + 1 }

end Sys2Proof.Machine
end

