-- ==== Sys2Proof/Machine/Flags.lean ====
section
/-! DEFINITION. The button flags: the debounce rule that sets EDGE and commits DEB (41_button_debounce.md R102), and the
snapshot that SWAP takes of them (40_frame_store.md R85). -/

namespace Sys2Proof.Machine

/-- The four values of one button that the debounce rule reads and writes (R102). -/
structure Button where
  raw  : Bool
  cnt  : BitVec 3
  deb  : Bool
  edge : Bool
deriving DecidableEq, Repr

/-- RAW[b], CNT[b], DEB[b], EDGE[b]. -/
def State.button (s : State) (b : Fin 5) : Button :=
  { raw := s.raw.get b, cnt := s.cnt.get b, deb := s.deb.get b, edge := s.edge.get b }

/-- Write the four values of button b; the other four buttons are untouched. -/
def State.setButton (s : State) (b : Fin 5) (q : Button) : State :=
  { s with raw := s.raw.set b q.raw, cnt := s.cnt.set b q.cnt, deb := s.deb.set b q.deb, edge := s.edge.set b q.edge }

/-- The debounce rule for one sample of one button (R102). -/
def debounce (level : Bool) (q : Button) : Button :=
  if level != q.raw then
    { q with raw := level, cnt := 0#3, edge := if level then true else q.edge }
  else if q.cnt + 1#3 = Config.debounceN then
    { q with deb := q.raw, cnt := 0#3 }
  else
    { q with cnt := q.cnt + 1#3 }

/-- DebounceStep(b, level) (R102). -/
def debounceStep (b : Fin 5) (level : Bool) (s : State) : State := s.setButton b (debounce level (s.button b))

/-- SWAP's effects (a) and (b): APP_EDGE <- EDGE, EDGE <- 0, APP_LEVEL <- DEB, for every button (R85). -/
def commitButtons (s : State) : State :=
  { s with appEdge := s.edge, edge := .all false, appLevel := s.deb }

end Sys2Proof.Machine
end

