-- ==== Sys2Proof/Machine/Buttons.lean ====
section
/-! DEFINITION. The Button Debounce Engine's queries GETLVL and GETEDGE (41_button_debounce.md R105, R106); its rule stands in
Machine/Flags.lean. -/

namespace Sys2Proof.Machine

/-- Respond one bit of a per-button array, zero-extended; refuse an index outside the enumeration (R71, R105, R106). -/
def respondButton (arr : PerButton Bool) (b : BitVec 3) (s : State) : Host.Outcome State Fault Refusal :=
  match buttonOf b with
  | some k => .next (respond ((BitVec.ofBool (arr.get k)).setWidth 32) s)
  | none => .refused .buttonIndex

/-- GETLVL b: respond zext_32(APP_LEVEL[b]) (R105). -/
def execGetlvl (b : BitVec 3) (s : State) : Host.Outcome State Fault Refusal :=
  afterBegin (fun s => respondButton s.appLevel b s) s

/-- GETEDGE b: respond zext_32(APP_EDGE[b]); reading does not clear the flag (R106). -/
def execGetedge (b : BitVec 3) (s : State) : Host.Outcome State Fault Refusal :=
  afterBegin (fun s => respondButton s.appEdge b s) s

end Sys2Proof.Machine
end

