-- ==== Sys2Proof/Machine/FrameStore.lean ====
section
/-! DEFINITION. The Frame Store's commands GETBUF, SETPIX, CLEAR, SWAP, LDROW, STROW (40_frame_store.md R80 to R92) and the
overlay step of SWAP (44_text_overlay.md R152). -/

namespace Sys2Proof.Machine

/-- GETBUF: respond BACKBASE, the address of row 0 of the back grid (R80). -/
def execGetbuf (s : State) : Host.Outcome State Fault Refusal :=
  afterBegin (fun s => .next (respond ((backAddr s 0#3).setWidth 32) s)) s

/-- SETPIX's state change (R81). -/
def setPixel (x y : Byte) (c : ColourIndex) (s : State) : State :=
  if onGrid x y then
    memWrite s (backAddr s (rowOf y)) (setCell (memRead s (backAddr s (rowOf y))) x.toNat c)
  else s

/-- SETPIX x, y, c: write one cell of the back grid; out of range it is ignored (R81). -/
def execSetpix (x y : Byte) (c : ColourIndex) (s : State) : Host.Outcome State Fault Refusal :=
  afterBegin (fun s => .next (setPixel x y c s)) s

/-- for r in rs: MemWrite(BACKBASE + r, 0x0000) (R82). -/
def clearRows : List RowIndex → State → State
  | [], s => s
  | r :: rs, s => clearRows rs (memWrite s (backAddr s r) 0#16)

/-- CLEAR: zero the back grid (R82). -/
def execClear (s : State) : Host.Outcome State Fault Refusal :=
  afterBegin (fun s => .next (clearRows rows s)) s

/-- SWAP's effect (c): LASTTICKS <- TICKS; TICKS <- 0 (R84). -/
def captureTicks (s : State) : State := { s with lastTicks := s.ticks, ticks := 0#32 }

/-- SWAP's effect (d): FRONT <- 1 - FRONT (R86). -/
def exchangeGrids (s : State) : State := { s with front := s.back }

/-- SWAP's effect (e): if BACKEND = FB and TEXT_CUR != TEXT_SHADOW, emit OVERLAY(TEXT_CUR); TEXT_SHADOW <- TEXT_CUR (R152). -/
def redrawOverlay (s : State) : State :=
  match s.backend with
  | .sr => s
  | .fb => if s.textCur = s.textShadow then s else { emit [.overlay s.textCur] s with textShadow := s.textCur }

/-- The body of SWAP's critical section, effects (a) to (e) (R83). -/
def swapBody (s : State) : State := redrawOverlay (exchangeGrids (captureTicks (commitButtons s)))

/-- The entry of SWAP's phase 2: with SCHED_EN = 1 the host waits; else "the wait is skipped entirely" (R87). -/
def enterSwapWait (s : State) : State := if s.schedEn then { s with hphase := .swapWait } else s

/-- SWAP: phase 1, the critical section, then the entry of the tick wait (R83). The wait ends in a step of its own,
`completeSwap`, as R48 divides it. -/
def execSwap (s : State) : Host.Outcome State Fault Refusal :=
  afterBegin (fun s => .next (enterSwapWait (atomic swapBody s))) s

/-- The condition of the tick wait: TICKS >= 2 (R87). -/
def swapWaitOver (s : State) : Bool := Config.swapWaitTicks.ule s.ticks

/-- The host waits in SWAP and the tick condition holds: "the command completes at the first moment TICKS >= 2" (R87, R18). -/
def swapDue (s : State) : Bool :=
  match s.hphase with
  | .swapWait => swapWaitOver s
  | .idle => false

/-- SWAP's completion: HPHASE <- IDLE (R83, R87). -/
def completeSwap (s : State) : State := { s with hphase := .idle }

/-- LDROW a: respond zext_32(MemRead(a)) (R88). -/
def execLdrow (a : GridAddr) (s : State) : Host.Outcome State Fault Refusal :=
  afterBegin (fun s => .next (respond ((memRead s a).setWidth 32) s)) s

/-- STROW a, d: MemWrite(a, d), with no check of the grid `a` lies in (R89, R196). -/
def execStrow (a : GridAddr) (d : RowWord) (s : State) : Host.Outcome State Fault Refusal :=
  afterBegin (fun s => .next (memWrite s a d)) s

end Sys2Proof.Machine
end

