-- ==== Sys2Proof/Machine/Init.lean ====
section
/-! DEFINITION. BEGIN (45_init.md R160, R161). -/

namespace Sys2Proof.Machine

/-- BEGIN's LUT: the packed table, or unchanged where T = 0 (R161). -/
def lutAfterBegin (table : Option ColourTable) (lut : Lut) : Lut :=
  match table with
  | some t => packTable t
  | none => lut

/-- BEGIN k, s [, table]: BACKEND <- k, SCHED_EN <- s, the table's LUT, INIT <- 1; a second BEGIN is refused (R160, R161). -/
def execBegin (k : Backend) (startSched : Bool) (table : Option ColourTable) (s : State) :
    Host.Outcome State Fault Refusal :=
  if s.init then .refused .secondBegin
  else .next { s with backend := k, schedEn := startSched, lut := lutAfterBegin table s.lut, init := true }

end Sys2Proof.Machine
end

