-- ==== Sys2Proof/Machine/Overlay.lean ====
section
/-! DEFINITION. The Text Overlay Differ's commands SETTEXT and APPTEXT (44_text_overlay.md R150, R151); its redraw is a step of
SWAP, in Machine/FrameStore.lean. -/

namespace Sys2Proof.Machine

/-- if len(s) <= TEXT_MAX then TEXT_CUR <- s else nothing (R150). -/
def setText (text : List Byte) (s : State) : State :=
  if text.length ≤ s.params.textMax then { s with textCur := text } else s

/-- if len(TEXT_CUR) + len(s) <= TEXT_MAX then TEXT_CUR <- TEXT_CUR ++ s else nothing (R151). -/
def appendText (text : List Byte) (s : State) : State :=
  if s.textCur.length + text.length ≤ s.params.textMax then { s with textCur := s.textCur ++ text } else s

/-- SETTEXT "s" (R150). -/
def execSettext (text : List Byte) (s : State) : Host.Outcome State Fault Refusal :=
  afterBegin (fun s => .next (atomic (setText text) s)) s

/-- APPTEXT "s" (R151). -/
def execApptext (text : List Byte) (s : State) : Host.Outcome State Fault Refusal :=
  afterBegin (fun s => .next (atomic (appendText text) s)) s

end Sys2Proof.Machine
end

