-- ==== Sys2Proof/Machine/Render.lean ====
section
/-! DEFINITION. The Backend Renderer (43_backend_renderer.md R130 to R139): the row fetch and dispatch, the shift-register
variant at pin level over the chains of R133, the framebuffer variant, the blank; and two views of the display side, the
latch-level trace and the lit LEDs (R35, R130, R135). -/

namespace Sys2Proof.Machine

/-! ## The shift-register chains -/

/-- COLSR <- {COLSR[14:0], COL_DATA} (R133). -/
def shiftCol (sr : BitVec 16) (d : Bool) : BitVec 16 := sr.extractLsb' 0 15 ++ BitVec.ofBool d

/-- ROWSR <- {ROWSR[6:0], ROW_DATA} (R133). -/
def shiftRow (sr : BitVec 8) (d : Bool) : BitVec 8 := sr.extractLsb' 0 7 ++ BitVec.ofBool d

/-- Drive one line: a rising clock edge shifts its chain, a rising LATCH edge loads both latches; "Falling edges and
data-line changes do nothing by themselves" (R133). -/
def SerialPort.drive (p : SerialPort) (line : Line) (v : Bool) : SerialPort :=
  match line with
  | .colData => { p with colData := v }
  | .colClk => { p with colClk := v, colSr := if v && !p.colClk then shiftCol p.colSr p.colData else p.colSr }
  | .rowData => { p with rowData := v }
  | .rowClk => { p with rowClk := v, rowSr := if v && !p.rowClk then shiftRow p.rowSr p.rowData else p.rowSr }
  | .latch =>
    { p with
      latch := v
      colLatch := if v && !p.latch then p.colSr else p.colLatch
      rowLatch := if v && !p.latch then p.rowSr else p.rowLatch }

/-- Drive lines one after another. -/
def SerialPort.driveAll (p : SerialPort) : List (Line × Bool) → SerialPort
  | [] => p
  | (line, v) :: es => (p.drive line v).driveAll es

/-- The clock lines and LATCH are at 0, as at reset and "at the end" of every sequence (R134, R36). -/
def SerialPort.quiet (p : SerialPort) : Bool := !p.colClk && !p.rowClk && !p.latch

/-- Bit numbers 15 down to 0. -/
def colBits : List Nat := [15, 14, 13, 12, 11, 10, 9, 8, 7, 6, 5, 4, 3, 2, 1, 0]

/-- Bit numbers 7 down to 0. -/
def rowBits : List Nat := [7, 6, 5, 4, 3, 2, 1, 0]

/-- One column bit: data, clock up, clock down (R134). -/
def colBitPins (col : BitVec 16) (i : Nat) : List (Line × Bool) :=
  [(.colData, col.getLsbD i), (.colClk, true), (.colClk, false)]

/-- One row bit: data, clock up, clock down (R134). -/
def rowBitPins (row : BitVec 8) (i : Nat) : List (Line × Bool) :=
  [(.rowData, row.getLsbD i), (.rowClk, true), (.rowClk, false)]

/-- The fixed sequence of R134: the column chain, then the row chain, each most significant bit first, then one LATCH
pulse. -/
def pinSequence (col : BitVec 16) (row : BitVec 8) : List (Line × Bool) :=
  colBits.flatMap (colBitPins col) ++ rowBits.flatMap (rowBitPins row) ++ [(.latch, true), (.latch, false)]

/-- PIN(line, v). -/
def pinEvent (e : Line × Bool) : Event := .pin e.1 e.2

/-- Drive the lines and record each write in the output trace (R130, R134). -/
def drivePins (es : List (Line × Bool)) (s : State) : State :=
  { s with sr := s.sr.driveAll es, out := s.out ++ es.map pinEvent }

/-- 1 << r, the one-hot row lines (R132). -/
def oneHot (r : RowIndex) : BitVec 8 := 1#8 <<< r.toNat

/-- RenderRowSR(r, w): col = (~w) & 0xFFFF, row = 1 << r (R132, R134). -/
def renderRowSR (r : RowIndex) (w : RowWord) (s : State) : State := drivePins (pinSequence (~~~w) (oneHot r)) s

/-- BlankSR(): the same sequence with col = 0xFFFF and row = 0x00 (R136). -/
def blankSR (s : State) : State := drivePins (pinSequence 0xFFFF#16 0x00#8) s

/-! ## The framebuffer variant -/

/-- The columns 0 to 7, in ascending order. -/
def columns : List Nat := [0, 1, 2, 3, 4, 5, 6, 7]

/-- FILLRECT(ORIGIN_X + c*CELL_W, ORIGIN_Y + r*CELL_H, CELL_W, CELL_H, LUT[cell(w, c)]) (R137, R138). -/
def cellRect (p : Params) (lut : Lut) (r : RowIndex) (w : RowWord) (c : Nat) : Event :=
  .fillRect (p.originX + c * p.cellW) (p.originY + r.toNat * p.cellH) p.cellW p.cellH (lut.get (cell w c))

/-- RenderRowFB(r, w): eight rectangles, columns in ascending order (R137). -/
def renderRowFB (r : RowIndex) (w : RowWord) (s : State) : State :=
  emit (columns.map (cellRect s.params s.lut r w)) s

/-! ## Row fetch and dispatch -/

/-- RenderRow(r): fetch the row word of the front grid and hand it to the variant selected at BEGIN (R131). -/
def renderRow (r : RowIndex) (s : State) : State :=
  match s.backend with
  | .sr => renderRowSR r (memRead s (frontAddr s r)) s
  | .fb => renderRowFB r (memRead s (frontAddr s r)) s

/-! ## Views of the display side -/

/-- One entry of the latch-level observation of R130. -/
inductive LatchView where
  /-- (ROWLATCH, COLLATCH) after a LATCH rising edge. -/
  | latched (row : BitVec 8) (col : BitVec 16)
  /-- HOLD. -/
  | hold
deriving DecidableEq, Repr

/-- The latch-level trace of a sequence of events, from given chains: "the sequence of (ROWLATCH, COLLATCH) pairs after each
LATCH rising edge" (R130). -/
def latchTrace : SerialPort → List Event → List LatchView
  | _, [] => []
  | p, .pin .latch true :: es =>
    if p.latch then latchTrace (p.drive .latch true) es
    else .latched p.rowSr p.colSr :: latchTrace (p.drive .latch true) es
  | p, .pin line v :: es => latchTrace (p.drive line v) es
  | p, .hold :: es => .hold :: latchTrace p es
  | p, .fillRect _ _ _ _ _ :: es => latchTrace p es
  | p, .overlay _ :: es => latchTrace p es

/-- The LED of colour bit k in column c of row r is lit "when `ROWLATCH[r] = 1` and `COLLATCH[2c+k] = 0`" (R35). -/
def SerialPort.lit (p : SerialPort) (r c k : Nat) : Bool := p.rowLatch.getLsbD r && !p.colLatch.getLsbD (2 * c + k)

end Sys2Proof.Machine
end

