-- ==== Sys2Proof/Machine/Scheduler.lean ====
section
/-! DEFINITION. The Refresh Scheduler: the TICK event, REFRESH and GETTICKS (42_refresh_scheduler.md R115 to R120). -/

namespace Sys2Proof.Machine

/-- TICKS <- (TICKS + 1) mod 2^32 (R115). -/
def countTick (s : State) : State := { s with ticks := s.ticks + 1#32 }

/-- SCAN <- (SCAN + 1) mod 8 (R115). -/
def advanceScan (s : State) : State := { s with scan := s.scan + 1#3 }

/-- DebounceStep(BTNCUR, pins[BTNCUR] ^ BTN_ACTIVE_LOW[BTNCUR]) (R115). -/
def sampleButton (pins : Pins) (s : State) : State :=
  debounceStep s.btnCur (normalise s.params.btnActiveLow pins s.btnCur) s

/-- BTNCUR <- (BTNCUR + 1) mod 5 (R115). -/
def advanceButton (s : State) : State := { s with btnCur := nextButton s.btnCur }

/-- TICK(pins): the actions of R115 in their order, the row rendered being the value SCAN had before its advance. -/
def tickBody (pins : Pins) (s : State) : State :=
  advanceButton (sampleButton pins (advanceScan (renderRow (countTick s).scan (countTick s))))

/-- One TICK step: "TPEND is cleared when its TICK starts" (R173), the pins are drawn, the handler runs to completion (R115,
R175, R177); a request that arrives while it runs is held (R173). -/
def tick (requestMeanwhile : Bool) (s : State) : State :=
  holdRequestIf requestMeanwhile (tickBody (pinsNow s) (popPins { s with tpend := false }))

/-- A held request's TICK (R173): a TICK like any other, so a request that arrives while it runs is held in its turn. -/
def tickHeld (s : State) : State := tick (heldMark s) (popHeldMark s)

/-- A tick request arrives: with the timer stopped there is none; masked, it is held; else the TICK runs (R172, R173, R175). -/
def tickRequest (requestMeanwhile : Bool) (s : State) : State :=
  if tickEnabled s then tick requestMeanwhile s else holdRequest s

/-- RenderRow(SCAN); SCAN <- (SCAN + 1) mod 8 (R118). -/
def renderNext (s : State) : State := advanceScan (renderRow s.scan s)

/-- Repeat `renderNext`. -/
def renderNextN : Nat → State → State
  | 0, s => s
  | n + 1, s => renderNextN n (renderNext s)

/-- REFRESH's end: on the shift-register backend hold, then blank; on the framebuffer backend nothing (R118, D13). -/
def holdAndBlank (s : State) : State :=
  match s.backend with
  | .sr => blankSR (emit [.hold] s)
  | .fb => s

/-- REFRESH's state change: SCAN <- 0, eight rows, then hold and blank (R118). -/
def refreshAllRows (s : State) : State := holdAndBlank (renderNextN 8 { s with scan := 0#3 })

/-- REFRESH: with SCHED_EN = 1 "the source gives REFRESH no meaning", refuse (R118, U4). -/
def execRefresh (s : State) : Host.Outcome State Fault Refusal :=
  afterBegin (fun s => if s.schedEn then .refused .refreshWhileScheduled else .next (refreshAllRows s)) s

/-- GETTICKS: respond LASTTICKS (R120). -/
def execGetticks (s : State) : Host.Outcome State Fault Refusal :=
  afterBegin (fun s => .next (respond s.lastTicks s)) s

/-- The tick rate in Hz (R3, R116): information, "no rule of this spec reads them". -/
def tickHz : Backend → Nat
  | .sr => 500
  | .fb => 200

end Sys2Proof.Machine
end

