-- ==== Sys2Proof/Machine/Dispatch.lean ====
section
/-! DEFINITION. The meaning of every command, one arm a row of spec/opcode_table.json. -/

namespace Sys2Proof.Machine

/-- Run one host command (for SWAP: its first step). -/
def exec (i : Instr) (s : State) : Host.Outcome State Fault Refusal :=
  match i with
  | .begin k startSched table => Sys2Proof.Machine.execBegin k startSched table s
  | .getbuf => Sys2Proof.Machine.execGetbuf s
  | .setpix x y c => Sys2Proof.Machine.execSetpix x y c s
  | .clear => Sys2Proof.Machine.execClear s
  | .swap => Sys2Proof.Machine.execSwap s
  | .getlvl b => Sys2Proof.Machine.execGetlvl b s
  | .getedge b => Sys2Proof.Machine.execGetedge b s
  | .getticks => Sys2Proof.Machine.execGetticks s
  | .refresh => Sys2Proof.Machine.execRefresh s
  | .settext text => Sys2Proof.Machine.execSettext text s
  | .apptext text => Sys2Proof.Machine.execApptext text s
  | .ldrow a => Sys2Proof.Machine.execLdrow a s
  | .strow a d => Sys2Proof.Machine.execStrow a d s

end Sys2Proof.Machine
end

