-- ==== Sys2Proof/Machine/Turns.lean ====
section
/-! DEFINITION. Who moves: the interleaving of the host's commands with the ticks (20_memory.md R48), the command port
(30_encoding.md R60), the wait of SWAP (40_frame_store.md R87) and the tick port (60_exceptions.md R173 to R176). -/

namespace Sys2Proof.Machine

/-- The outcome's next state, changed. -/
def mapNext (f : State → State) (o : Host.Outcome State Fault Refusal) : Host.Outcome State Fault Refusal :=
  match o with
  | .next s => .next (f s)
  | .fault r => .fault r
  | .refused r => .refused r

/-- A command accepted at the command port runs as one step; a tick request that arrives inside its critical section is held
(R46, R60, R173). A request that coincides with a command without a critical section is ordered before or after it (R174),
which the schedule says by an entry of its own. -/
def runCommand (requestMeanwhile : Bool) (i : Instr) (s : State) : Host.Outcome State Fault Refusal :=
  mapNext (holdRequestIf (requestMeanwhile && hasCriticalSection i)) (exec i s)

/-- The block looks at the command port: "The block accepts a header word only when HPHASE = IDLE" (R60). A command whose
words have not all been presented is waited for; a reserved word is refused (R70). -/
def acceptCommand (requestMeanwhile : Bool) (s : State) : Host.Outcome State Fault Refusal :=
  match decode s.cmd with
  | .instr i rest => runCommand requestMeanwhile i { s with cmd := rest }
  | .incomplete => .next s
  | .rejected e => .refused (.reservedWord e)

/-- The host's move: in SWAPWAIT "the host issues no command" (R18, R87), else it issues its next command. -/
def hostMove (requestMeanwhile : Bool) (s : State) : Host.Outcome State Fault Refusal :=
  match s.hphase with
  | .swapWait => .next s
  | .idle => acceptCommand requestMeanwhile s

/-- The host's move would do something: a command (or a reserved word) stands at the port of an idle block. -/
def hostReady (s : State) : Bool :=
  match s.hphase with
  | .swapWait => false
  | .idle =>
    match decode s.cmd with
    | .instr _ _ => true
    | .incomplete => false
    | .rejected _ => true

/-- A held request is served as soon as the mask is clear (R173). -/
def pendingServed (s : State) : Bool := s.tpend && tickEnabled s

/-- The tick source goes on after the schedule's end (R176). -/
def sourceTicks (s : State) : Bool :=
  match s.tickSource with
  | .keepsTicking => true
  | .stopped => false

/-- The move after the schedule's last entry: the host's if it can move, else a TICK if the timer runs and its source "keeps
ticking" (R176), else nothing happens: with a stopped source a waiting SWAP stays where it is (R203, U9; log entry 3). -/
def defaultMove (s : State) : Host.Outcome State Fault Refusal :=
  if hostReady s then hostMove false s
  else if tickEnabled s && sourceTicks s then .next (tick false s)
  else .next s

/-- One step of the block: the completion of a SWAP whose tick condition holds (R87: "at the first moment"), else a held tick
request (R173), else the schedule's next entry, else the default. -/
def takeTurn (s : State) : Host.Outcome State Fault Refusal :=
  if swapDue s then .next (completeSwap s)
  else if pendingServed s then .next (tickHeld s)
  else
    match s.turns with
    | .host req :: rest => hostMove req { s with turns := rest }
    | .tick req :: rest => .next (tickRequest req { s with turns := rest })
    | [] => defaultMove s

/-- The host has done what it must do first (70_reset_and_hazards.md R192): a command other than BEGIN finds BEGIN executed.
From reset this is exactly the state after `BEGIN 0, 0`, which there changes INIT alone (log entry 6). -/
def begunFor (ws : List Word) (s : State) : State :=
  match ws with
  | h :: _ => if opField h = 0x1#4 then s else { s with init := true }
  | [] => s

/-- Present words at the head of the command port to a block that will accept them in its next step: nothing held, no wait,
the host's turn. -/
def presentWords (ws : List Word) (s : State) : State :=
  { s with cmd := ws ++ s.cmd, hphase := .idle, tpend := false, turns := .host false :: s.turns }

end Sys2Proof.Machine
end

