-- ==== Sys2Proof/Machine/Step.lean ====
section
/-! DEFINITION. The step of RSDC (20_memory.md R48), and the state whose next step runs a given opcode-table word. -/

namespace Sys2Proof.Machine

/-- One step: a host command, SWAP's critical section, SWAP's completion, or one TICK (R48). -/
def step (s : State) : Host.Outcome State Fault Refusal := takeTurn s

/-- The state whose next step takes the instruction with the bits `w` from the command port: its header word and the payload
words the header calls for stand at the head of the port, the host moves next, and a command other than BEGIN finds BEGIN
executed (R160, R192). -/
def State.withFetchWord (s : State) (nbits w : Nat) : State :=
  presentWords (tableWords nbits w) (begunFor (tableWords nbits w) s)

end Sys2Proof.Machine
end

