-- ==== Sys2Proof/Safety.lean ====
section
/-! DEFINITION. What counts as a safe run of RSDC: which commands the spec gives a meaning in which states (45_init.md R160,
30_encoding.md R71, 42_refresh_scheduler.md R118), the invariants of the machine, what a host owes the block
(70_reset_and_hazards.md R196), and the display events of a row, written out from 43_backend_renderer.md R134 and R137 for the
statements. -/

namespace Sys2Proof.Machine

/-- The spec gives the command a meaning in this state: BEGIN before INIT (R160), every other command after it, a button index
of 0 to 4 (R71), REFRESH in manual mode (R118). -/
def commandDefined (i : Instr) (s : State) : Bool :=
  match i with
  | .begin _ _ _ => !s.init
  | .getbuf => s.init
  | .setpix _ _ _ => s.init
  | .clear => s.init
  | .swap => s.init
  | .getlvl b => s.init && decide (b.toNat ≤ 4)
  | .getedge b => s.init && decide (b.toNat ≤ 4)
  | .getticks => s.init
  | .refresh => s.init && !s.schedEn
  | .settext _ => s.init
  | .apptext _ => s.init
  | .ldrow _ => s.init
  | .strow _ _ => s.init

/-- The next state an outcome answers, if it answers one. -/
def nextOf (o : Host.Outcome State Fault Refusal) : Option State :=
  match o with
  | .next s => some s
  | .fault _ => none
  | .refused _ => none

/-- The refusal an outcome answers, if it answers one. -/
def refusalOf (o : Host.Outcome State Fault Refusal) : Option Refusal :=
  match o with
  | .next _ => none
  | .fault _ => none
  | .refused r => some r

/-- What holds of the machine between steps. -/
structure Inv (s : State) : Prop where
  /-- The grid RAM is in its canonical form. -/
  gridCanonical : s.grid.wf = true
  /-- CNT[b] is 0 to 3: "the value 4 = DEBOUNCE_N exists only inside the step" (R22). -/
  cntBelowFour : ∀ b, (s.cnt.get b).toNat < 4
  /-- TEXT_CUR has at most TEXT_MAX bytes (R27). -/
  curFits : s.textCur.length ≤ s.params.textMax
  /-- TEXT_SHADOW has at most TEXT_MAX bytes (R28). -/
  shadowFits : s.textShadow.length ≤ s.params.textMax
  /-- The clock lines and LATCH are at 0 (R36, R134). -/
  linesQuiet : s.sr.quiet = true
  /-- "IMASK is 0 in every state between steps" (R33). -/
  maskClear : s.imask = false
  /-- The scheduler is started by BEGIN only (R32). -/
  schedBegun : s.schedEn = true → s.init = true
  /-- The host waits in interrupt mode only (R87). -/
  waitScheduled : s.hphase = .swapWait → s.schedEn = true
  /-- The wait ends at TICKS = 2 (R115), so TICKS neither passes 2 nor wraps while the host waits. -/
  waitTicks : s.hphase = .swapWait → s.ticks.toNat ≤ 2
  /-- A tick request comes from a running timer (R172). -/
  heldRunning : s.tpend = true → timerRunning s = true
  /-- The open parameters keep their bounds (R4, R138). -/
  paramsInRange : s.params.wf = true

/-- The events of R134's fixed sequence for a column and a row pattern, written out from the rule: for i = 15 down to 0 the
column data and its clock up and down, for i = 7 down to 0 the row data and its clock up and down, LATCH up and down. -/
def fixedSequence (col : BitVec 16) (row : BitVec 8) : List Event :=
  ((List.range 16).flatMap fun n => [.pin .colData (col.getLsbD (15 - n)), .pin .colClk true, .pin .colClk false]) ++
    ((List.range 8).flatMap fun n => [.pin .rowData (row.getLsbD (7 - n)), .pin .rowClk true, .pin .rowClk false]) ++
    [.pin .latch true, .pin .latch false]

/-- The events of R134 for row r with row word w: col = (~w) & 0xFFFF, row = 1 << r. -/
def rowSequence (r : RowIndex) (w : RowWord) : List Event := fixedSequence (~~~w) (1#8 <<< r.toNat)

/-- The eight events of R137 for row r with row word w, for given geometry parameters and palette. -/
def rowRectangles (p : Params) (lut : Lut) (r : RowIndex) (w : RowWord) : List Event :=
  (List.range 8).map fun c =>
    .fillRect (p.originX + c * p.cellW) (p.originY + r.toNat * p.cellH) p.cellW p.cellH (lut.get (cell w c))

/-- A host obeys the buffer contract at a STROW: its address lies in the current back grid (R196). -/
def writesBackGrid (i : Instr) (s : State) : Bool :=
  match i with
  | .begin _ _ _ => true
  | .getbuf => true
  | .setpix _ _ _ => true
  | .clear => true
  | .swap => true
  | .getlvl _ => true
  | .getedge _ => true
  | .getticks => true
  | .refresh => true
  | .settext _ => true
  | .apptext _ => true
  | .ldrow _ => true
  | .strow a _ => a.extractLsb' 3 1 == s.back

end Sys2Proof.Machine
end

