-- ==== Sys2Proof/WellFormed.lean ====
section
/-! DEFINITION. Which terms of `Instr` are commands a host can present: those with an encoding (30_encoding.md R63, R64).
Every operand but a text has its field's own width; a text's length must fit the 8-bit field L. A button index of 5 to 7
has an encoding (R69) and is refused by the command's own rule (R71), so it is well formed here. -/

namespace Sys2Proof

/-- The text's length fits the field L, 0 to 255 (R64). -/
def textEncodable (text : List Byte) : Bool :=
  decide (text.length ≤ 255)

/-- The command has an encoding. -/
def Instr.wellFormed : Instr → Bool
  | .begin _ _ _ => true
  | .getbuf => true
  | .setpix _ _ _ => true
  | .clear => true
  | .swap => true
  | .getlvl _ => true
  | .getedge _ => true
  | .getticks => true
  | .refresh => true
  | .settext text => textEncodable text
  | .apptext text => textEncodable text
  | .ldrow _ => true
  | .strow _ _ => true

end Sys2Proof
end

