-- ==== Sys2Proof/Certificates/Slice0/Obligations.lean ====
section
/-! DEFINITION. The statements for the provers. Each docstring names the rules of spec/ it formalises. -/

open Sys2Proof Sys2Proof.Machine

/-! ## Encoding -/

/-- Words written out in 95_test_vectors.md Part 2, one for each command, decode to their commands. -/
def Obligations.SpecWordsDecode : Prop :=
  decode [0x10000005#32, 0x00000000#32, 0x00FF8040#32, 0x0000FF00#32, 0x000000FF#32] =
      .instr (.begin .fb false
        (some ⟨⟨0#8, 0#8, 0#8⟩, ⟨255#8, 128#8, 64#8⟩, ⟨0#8, 255#8, 0#8⟩, ⟨0#8, 0#8, 255#8⟩⟩)) [] ∧
    decode [0x20000000#32] = .instr .getbuf [] ∧
    decode [0x300203FF#32] = .instr (.setpix (BitVec.ofInt 8 (-1)) 3#8 2#2) [] ∧
    decode [0x40000000#32] = .instr .clear [] ∧
    decode [0x50000000#32] = .instr .swap [] ∧
    decode [0x60000002#32] = .instr (.getlvl 2#3) [] ∧
    decode [0x70000002#32] = .instr (.getedge 2#3) [] ∧
    decode [0x80000000#32] = .instr .getticks [] ∧
    decode [0x90000000#32] = .instr .refresh [] ∧
    decode [0xA0000005#32, 0x524F4353#32, 0x00000045#32] =
      .instr (.settext [0x53#8, 0x43#8, 0x4F#8, 0x52#8, 0x45#8]) [] ∧
    decode [0xB0000003#32, 0x00323120#32] = .instr (.apptext [0x20#8, 0x31#8, 0x32#8]) [] ∧
    decode [0xC0000009#32] = .instr (.ldrow 9#4) [] ∧
    decode [0xD00900FF#32] = .instr (.strow 9#4 0x00FF#16) []

/-- Every command a host can present is read back from its words, whatever words follow it (R63, R65, R67, R68). -/
def Obligations.DecodeReadsEncodedCommand : Prop :=
  ∀ (i : Instr) (rest : List Word), i.wellFormed = true → decode (encode i ++ rest) = .instr i rest

/-- A command the decoder reads is well formed and stands in the words as its encoding: no bit of them is ignored (R69, R70). -/
def Obligations.DecodedWordsAreTheEncoding : Prop :=
  ∀ (ws : List Word) (i : Instr) (rest : List Word),
    decode ws = .instr i rest → i.wellFormed = true ∧ ws = encode i ++ rest

/-- R65: a header word w selects a command exactly when w & mask = match in that command's row. -/
def Obligations.HeaderSelectsByMaskAndMatch : Prop :=
  ∀ (h : Word) (m : String),
    (∃ hd, decodeHeader h = .ok hd ∧ hd.mnemonic = m) ↔ ∃ row ∈ opcodeTable, row.1 = m ∧ h &&& row.2.2 = row.2.1

/-- R67: the header alone tells the length: 4 payload words for BEGIN with T = 1, ceil(L/4) for SETTEXT and APPTEXT, none
otherwise; they are consumed as payload. -/
def Obligations.PayloadCountFollowsHeader : Prop :=
  ∀ (h : Word) (rest rest' : List Word) (i : Instr),
    decode (h :: rest) = .instr i rest' →
      ∃ n, n = (if h.toNat / 2 ^ 28 = 1 then (if h.getLsbD 2 then 4 else 0)
          else if h.toNat / 2 ^ 28 = 10 ∨ h.toNat / 2 ^ 28 = 11 then (h.toNat % 256 + 3) / 4 else 0) ∧
        n ≤ rest.length ∧ rest' = rest.drop n

/-- R70: reserved opcodes, a non-zero must-be-zero bit in a header, and one in a BEGIN or text payload word are refused when
the block takes the command. That the refusal comes when the block takes it and not when it is presented is the model's reading
(log entry 10), on the host's turn of a queue (log entries 3 and 6). -/
def Obligations.ReservedWordsAreRefused : Prop :=
  ∀ (s : State) (req : Bool) (ts : List Turn) (h : Word) (rest : List Word),
    pendingServed s = false → s.hphase = .idle → s.turns = .host req :: ts → s.cmd = h :: rest →
      ((∀ row ∈ opcodeTable, h &&& row.2.2 ≠ row.2.1) → ∃ e, step s = .refused (.reservedWord e)) ∧
      (h &&& 0xFFFFFFFC#32 = 0x10000004#32 → ∀ w0 w1 w2 w3 more, rest = w0 :: w1 :: w2 :: w3 :: more →
        (2 ^ 24 ≤ w0.toNat ∨ 2 ^ 24 ≤ w1.toNat ∨ 2 ^ 24 ≤ w2.toNat ∨ 2 ^ 24 ≤ w3.toNat) →
        step s = .refused (.reservedWord .payloadMustBeZero)) ∧
      (h &&& 0xFFFFFF00#32 = 0xA0000000#32 ∨ h &&& 0xFFFFFF00#32 = 0xB0000000#32 →
        ∀ ws w more, rest = ws ++ w :: more → h.toNat % 256 = 4 * ws.length + h.toNat % 4 → h.toNat % 4 ≠ 0 →
        2 ^ (8 * (h.toNat % 4)) ≤ w.toNat → step s = .refused (.reservedWord .payloadMustBeZero))

/-! ## The step -/

/-- R48, R60: on the host's turn an idle block runs the command that stands at the command port, as `exec` gives it; a tick
request that arrives inside its critical section is held (R173). The second clause is the turn after the schedule's end. That a
schedule in the state says who moves is the model's choice (log entry 3). -/
def Obligations.StepRunsDecodedCommand : Prop :=
  ∀ (s : State) (i : Instr) (rest : List Word), pendingServed s = false → s.hphase = .idle → decode s.cmd = .instr i rest →
    (∀ req ts, s.turns = .host req :: ts →
      step s = mapNext (holdRequestIf (req && hasCriticalSection i)) (exec i { s with turns := ts, cmd := rest })) ∧
    (s.turns = [] → step s = exec i { s with cmd := rest })

/-- R60: any command, encoded and presented at the command port, is run by the very next step and its words are taken. The queue
of presented words is the model's form of the port (log entry 6). -/
def Obligations.PresentedCommandRunsNext : Prop :=
  ∀ (i : Instr) (s : State), i.wellFormed = true →
    step (presentWords (encode i) s) = exec i { s with hphase := .idle, tpend := false }

/-- R87, R18: while the host waits in SWAP, the step completes SWAP as soon as TICKS >= 2, whatever is held or scheduled, and
before that the host's turn changes nothing. That completion is a step of its own before any other is the model's reading (log
entry 8). -/
def Obligations.SwapCompletesAtTwoTicks : Prop :=
  ∀ s : State, s.hphase = .swapWait →
    (2 ≤ s.ticks.toNat → step s = .next { s with hphase := .idle }) ∧
    (s.ticks.toNat < 2 → pendingServed s = false → ∀ (req : Bool) (ts : List Turn), s.turns = .host req :: ts →
      step s = .next { s with turns := ts })

/-- R87 under the fairness of R176, which is a premise (D32): a SWAP that waits completes, for every schedule, if the tick source
keeps ticking; within a step a scheduled move and three more. -/
def Obligations.SwapWaitEnds : Prop :=
  ∀ s : State, Inv s → s.hphase = .swapWait → s.tickSource = .keepsTicking →
    ∃ k t, k ≤ s.turns.length + 3 ∧ Host.Core.run core k s = .next t ∧ t.hphase = .idle

/-- R203, U9: without a tick a SWAP that waits never completes: with the tick source stopped, none scheduled and none held, every
run, however long, still waits, and only the host's turns are used up. -/
def Obligations.SwapHangsWithoutTicks : Prop :=
  ∀ s : State, s.hphase = .swapWait → s.ticks.toNat < 2 → s.tpend = false → s.tickSource = .stopped →
    (∀ turn ∈ s.turns, ∃ req, turn = .host req) →
    ∀ k, Host.Core.run core k s = .next { s with turns := s.turns.drop k }

/-- R48: a TICK before SWAP's completion and one after it give the same state, so that completing at the first moment (log entry 8)
loses no behaviour. -/
def Obligations.SwapCompletionCommutesWithTick : Prop :=
  ∀ (s : State) (req : Bool), tick req { s with hphase := .idle } = { tick req s with hphase := .idle }

/-- R172, R173, R175: a tick request with the timer stopped does not exist, while masked it is held in TPEND (a second one is
lost), else the TICK step runs. The request's place in the schedule is the model's (log entries 3 and 7). -/
def Obligations.TickRequestOutcome : Prop :=
  ∀ (s : State) (req : Bool) (ts : List Turn), swapDue s = false → pendingServed s = false → s.turns = .tick req :: ts →
    (s.init = true ∧ s.schedEn = true ∧ s.imask = false → step s = .next (tick req { s with turns := ts })) ∧
    (s.init = true ∧ s.schedEn = true ∧ s.imask = true → step s = .next { s with turns := ts, tpend := true }) ∧
    (s.init = false ∨ s.schedEn = false → step s = .next { s with turns := ts })

/-- R173, R34: a held request is served by the very next step once the mask is clear, as a TICK like any other: a request that
arrives while it runs (the environment's mark, log entry 7) is held in its turn. A SWAP that is due completes first (log entry 8). -/
def Obligations.HeldRequestIsServedNext : Prop :=
  ∀ s : State, swapDue s = false → s.tpend = true → s.init = true ∧ s.schedEn = true ∧ s.imask = false →
    step s = .next (tick (s.heldMarks.headD false) { s with heldMarks := s.heldMarks.tail }) ∧
    ∀ t, step s = .next t → t.turns = s.turns ∧ t.heldMarks = s.heldMarks.tail ∧ t.tpend = s.heldMarks.headD false ∧
      t.ticks = s.ticks + 1#32

/-- R46, R173: a tick request that arrives inside the critical section of SWAP, SETTEXT or APPTEXT waits in TPEND until the mask
clears and is then the very next step, whatever the schedule says; a request that arrives while that TICK runs (the environment's
mark) is held in its turn. Serving it before the schedule's next entry is the model's reading (log entry 7). -/
def Obligations.MaskedRequestIsServedNext : Prop :=
  ∀ (s : State) (i : Instr) (rest : List Word) (ts : List Turn),
    pendingServed s = false → s.hphase = .idle → s.turns = .host true :: ts → decode s.cmd = .instr i rest →
    s.init = true → s.schedEn = true → (i = .swap ∨ ∃ text, i = .settext text ∨ i = .apptext text) →
      ∃ t, step s = .next t ∧ t.tpend = true ∧ t.imask = false ∧ t.ticks = (if i = .swap then 0#32 else s.ticks) ∧
        t.heldMarks = s.heldMarks ∧
        ∃ u, step t = .next u ∧ u = tick (s.heldMarks.headD false) { t with heldMarks := s.heldMarks.tail } ∧
          u.ticks = t.ticks + 1#32 ∧ u.tpend = s.heldMarks.headD false ∧ u.turns = ts

/-! ## The commands -/

/-- R161: BEGIN writes BACKEND, SCHED_EN, INIT and, with a table, the packed LUT, and nothing else. The model refuses a second
BEGIN as R160 says. -/
def Obligations.BeginSetsModeAndPalette : Prop :=
  ∀ (k : Backend) (en : Bool) (s : State),
    (s.init = false →
      exec (.begin k en none) s = .next { s with backend := k, schedEn := en, init := true } ∧
      ∀ t : ColourTable, exec (.begin k en (some t)) s =
        .next { s with
          backend := k
          schedEn := en
          init := true
          lut := { e0 := pack t.t0, e1 := pack t.t1, e2 := pack t.t2, e3 := pack t.t3 } }) ∧
    (s.init = true → ∀ table, exec (.begin k en table) s = .refused .secondBegin) ∧
    (∀ table, encode (.begin k en table) =
      (0x10000000#32 ||| (if table.isSome then 4#32 else 0#32) ||| (if en then 2#32 else 0#32) |||
          (if k = .fb then 1#32 else 0#32)) ::
        match table with
        | none => []
        | some t => [t.t0, t.t1, t.t2, t.t3].map fun q =>
          BitVec.ofNat 32 (q.r.toNat * 2 ^ 16 + q.g.toNat * 2 ^ 8 + q.bl.toNat))

/-- R162: PACK is the 16-bit 5-6-5 packing with truncation, here as a sum of its three fields. -/
def Obligations.PackIsRgb565 : Prop :=
  ∀ t : Triplet, (pack t).toNat = (t.r.toNat / 8) * 2048 + (t.g.toNat / 4) * 32 + t.bl.toNat / 8

/-- R80: GETBUF responds 8*(1-FRONT) and writes nothing else. -/
def Obligations.GetbufRespondsBackBase : Prop :=
  encode .getbuf = [0x20000000#32] ∧
    ∀ s : State, s.init = true →
      exec .getbuf s = .next { s with resp := s.resp ++ [BitVec.ofNat 32 (8 * (1 - s.front.toNat))] }

/-- R81: SETPIX on the grid replaces exactly one cell of the back grid; off the grid it changes nothing. -/
def Obligations.SetpixWritesOneCell : Prop :=
  ∀ (x y : Byte) (c : ColourIndex) (s : State), s.init = true →
    encode (.setpix x y c) = [BitVec.ofNat 32 (0x30000000 + c.toNat * 2 ^ 16 + y.toNat * 2 ^ 8 + x.toNat)] ∧
    ∃ t, exec (.setpix x y c) s = .next t ∧ { t with grid := s.grid } = s ∧
      (0 ≤ x.toInt ∧ x.toInt < 8 ∧ 0 ≤ y.toInt ∧ y.toInt < 8 →
        ∀ (g : BitVec 1) (r : RowIndex) (col : Nat), col < 8 →
          cell (memRead t (rowAddr g r)) col =
            if g = 1#1 - s.front ∧ (r.toNat : Int) = y.toInt ∧ (col : Int) = x.toInt then c
            else cell (memRead s (rowAddr g r)) col) ∧
      (¬ (0 ≤ x.toInt ∧ x.toInt < 8 ∧ 0 ≤ y.toInt ∧ y.toInt < 8) → t = s)

/-- R82: CLEAR zeroes the eight words of the back grid and leaves the front grid and everything else. -/
def Obligations.ClearZeroesBackGrid : Prop :=
  encode .clear = [0x40000000#32] ∧
    ∀ s : State, s.init = true →
      ∃ t, exec .clear s = .next t ∧ { t with grid := s.grid } = s ∧
        ∀ (g : BitVec 1) (r : RowIndex),
          memRead t (rowAddr g r) = if g = 1#1 - s.front then 0x0000#16 else memRead s (rowAddr g r)

/-- R83, R84, R85, R86, R152: the five effects of SWAP's critical section, the entry of the wait, and nothing else; the mask is
released (R46). -/
def Obligations.SwapCriticalSectionEffects : Prop :=
  encode .swap = [0x50000000#32] ∧
    ∀ s : State, s.init = true →
      exec .swap s = .next { s with
        appEdge := s.edge
        edge := { b0 := false, b1 := false, b2 := false, b3 := false, b4 := false }
        appLevel := s.deb
        lastTicks := s.ticks
        ticks := 0#32
        front := 1#1 - s.front
        out := if s.backend = .fb ∧ s.textCur ≠ s.textShadow then s.out ++ [.overlay s.textCur] else s.out
        textShadow := if s.backend = .fb then s.textCur else s.textShadow
        imask := false
        hphase := if s.schedEn = true then .swapWait else s.hphase }

/-- R105: GETLVL responds the bit APP_LEVEL[b] for b = 0 to 4 and is refused for 5 to 7. -/
def Obligations.GetlvlRespondsLevel : Prop :=
  ∀ s : State, s.init = true →
    (∀ b : Fin 5, encode (.getlvl (BitVec.ofNat 3 b.val)) = [BitVec.ofNat 32 (0x60000000 + b.val)] ∧
      exec (.getlvl (BitVec.ofNat 3 b.val)) s =
        .next { s with resp := s.resp ++ [if s.appLevel.get b then 1#32 else 0#32] }) ∧
    (∀ b : BitVec 3, 4 < b.toNat → exec (.getlvl b) s = .refused .buttonIndex)

/-- R106: GETEDGE responds the bit APP_EDGE[b] and does not clear it; it is refused for 5 to 7. -/
def Obligations.GetedgeRespondsFlag : Prop :=
  ∀ s : State, s.init = true →
    (∀ b : Fin 5, encode (.getedge (BitVec.ofNat 3 b.val)) = [BitVec.ofNat 32 (0x70000000 + b.val)] ∧
      exec (.getedge (BitVec.ofNat 3 b.val)) s =
        .next { s with resp := s.resp ++ [if s.appEdge.get b then 1#32 else 0#32] }) ∧
    (∀ b : BitVec 3, 4 < b.toNat → exec (.getedge b) s = .refused .buttonIndex)

/-- R120: GETTICKS responds LASTTICKS, not the live counter. -/
def Obligations.GetticksRespondsCapture : Prop :=
  encode .getticks = [0x80000000#32] ∧
    ∀ s : State, s.init = true → exec .getticks s = .next { s with resp := s.resp ++ [s.lastTicks] }

/-- R118: REFRESH renders rows 0 to 7 of the front grid, leaves SCAN = 0, holds and blanks on the shift-register backend only,
and changes nothing but SCAN and the display side; with the scheduler running it is refused. The events it adds are exactly
those of R137 or R134 for the eight rows, HOLD and the blank's; their latch-level view and the latches' final values hold where
the clock lines are at 0 before (the invariant `linesQuiet`). -/
def Obligations.RefreshDrivesAllRows : Prop :=
  encode .refresh = [0x90000000#32] ∧
    ∀ s : State, s.init = true →
      (s.schedEn = true → exec .refresh s = .refused .refreshWhileScheduled) ∧
      (s.schedEn = false → ∃ t, exec .refresh s = .next t ∧ t.scan = 0#3 ∧
        { t with scan := s.scan, sr := s.sr, out := s.out } = s ∧
        (s.backend = .fb → t.sr = s.sr ∧
          t.out = s.out ++ rows.flatMap fun r => columns.map fun c =>
            .fillRect (s.params.originX + c * s.params.cellW) (s.params.originY + r.toNat * s.params.cellH)
              s.params.cellW s.params.cellH (s.lut.get (cell (memRead s (rowAddr s.front r)) c))) ∧
        (s.backend = .sr → ∃ es, t.out = s.out ++ es ∧
          es = (rows.flatMap fun r => rowSequence r (memRead s (rowAddr s.front r))) ++ .hold ::
            fixedSequence 0xFFFF#16 0x00#8 ∧
          (s.sr.quiet = true →
            t.sr.rowSr = 0x00#8 ∧ t.sr.rowLatch = 0x00#8 ∧ t.sr.colSr = 0xFFFF#16 ∧ t.sr.colLatch = 0xFFFF#16 ∧
            t.sr.quiet = true ∧
            latchTrace s.sr es =
              (rows.map fun r => LatchView.latched (1#8 <<< r.toNat) (~~~(memRead s (rowAddr s.front r)))) ++
                [.hold, .latched 0x00#8 0xFFFF#16])))

/-- R150: SETTEXT's header is 0xA0000000 with the text's length; SETTEXT stores a text of at most TEXT_MAX bytes and drops a
longer one whole; nothing else is written and nothing drawn. -/
def Obligations.SettextStoresOrDrops : Prop :=
  ∀ (text : List Byte) (s : State), s.init = true →
    (text.length ≤ 255 → ∃ ws, encode (.settext text) = BitVec.ofNat 32 (0xA0000000 + text.length) :: ws ∧
      ws.length = (text.length + 3) / 4) ∧
    exec (.settext text) s =
      .next { s with textCur := if text.length ≤ s.params.textMax then text else s.textCur, imask := false }

/-- R151: APPTEXT's header is 0xB0000000 with the text's length; APPTEXT appends the whole text or, past TEXT_MAX, none of it;
nothing else is written and nothing drawn. -/
def Obligations.ApptextAppendsOrDrops : Prop :=
  ∀ (text : List Byte) (s : State), s.init = true →
    (text.length ≤ 255 → ∃ ws, encode (.apptext text) = BitVec.ofNat 32 (0xB0000000 + text.length) :: ws ∧
      ws.length = (text.length + 3) / 4) ∧
    exec (.apptext text) s =
      .next { s with
        textCur := if s.textCur.length + text.length ≤ s.params.textMax then s.textCur ++ text else s.textCur
        imask := false }

/-- R88: LDROW responds the word at its address, of either grid, zero-extended, and writes nothing. -/
def Obligations.LdrowRespondsWord : Prop :=
  ∀ (a : GridAddr) (s : State), s.init = true →
    encode (.ldrow a) = [BitVec.ofNat 32 (0xC0000000 + a.toNat)] ∧
    exec (.ldrow a) s = .next { s with resp := s.resp ++ [BitVec.ofNat 32 (memRead s a).toNat] }

/-- R89: STROW writes the word at its address, of either grid with no check, and no other word or register. -/
def Obligations.StrowWritesOneWord : Prop :=
  ∀ (a : GridAddr) (d : RowWord) (s : State), s.init = true →
    encode (.strow a d) = [BitVec.ofNat 32 (0xD0000000 + a.toNat * 2 ^ 16 + d.toNat)] ∧
    ∃ t, exec (.strow a d) s = .next t ∧ { t with grid := s.grid } = s ∧
      ∀ b : GridAddr, memRead t b = if b = a then d else memRead s b

/-- R160, R71, R118: a command answers a next state exactly where the spec gives it a meaning; before BEGIN every other command
is refused as such. No command faults (R170). -/
def Obligations.CommandRunsIffDefined : Prop :=
  ∀ (i : Instr) (s : State),
    ((∃ t, exec i s = .next t) ↔ commandDefined i s = true) ∧
    (commandDefined i s = false → ∃ r, exec i s = .refused r) ∧
    (s.init = false → (∀ k en table, i ≠ .begin k en table) → exec i s = .refused .beforeBegin)

/-! ## The tick -/

/-- R115, R173: TICK counts, advances SCAN modulo 8 and BTNCUR modulo 5, and writes nothing but these, the button state, the
display side and the tick port's own bookkeeping; the grid RAM is never written. A request that arrives while it runs (`req`) is
held in TPEND if the timer runs, and is all that differs. -/
def Obligations.TickAdvancesCursors : Prop :=
  ∀ (s : State) (req : Bool),
    (tick req s).ticks.toNat = (s.ticks.toNat + 1) % 2 ^ 32 ∧
    (tick req s).scan.toNat = (s.scan.toNat + 1) % 8 ∧
    (tick req s).btnCur.val = (s.btnCur.val + 1) % 5 ∧
    (tick req s).tpend = (req && timerRunning s) ∧
    tick req s = { tick false s with tpend := req && timerRunning s } ∧
    { tick req s with
      ticks := s.ticks
      scan := s.scan
      btnCur := s.btnCur
      raw := s.raw
      cnt := s.cnt
      deb := s.deb
      edge := s.edge
      sr := s.sr
      out := s.out
      tpend := s.tpend
      pinDraws := s.pinDraws
      draws := s.draws } = s

/-- R104: the transition table of one sample, for the one button BTNCUR names, its level being its drawn pin XOR its
active-low bit (R100); the other four buttons are untouched (R102). -/
def Obligations.TickSamplesOneButton : Prop :=
  ∀ (s : State) (req : Bool) (b : Fin 5) (level : Bool),
    level = ((pinsNow s).getLsbD b.val ^^ s.params.btnActiveLow.getLsbD b.val) →
    (b ≠ s.btnCur → (tick req s).button b = s.button b) ∧
    (b = s.btnCur →
      (s.raw.get b = level → (s.cnt.get b).toNat < 3 →
        (tick req s).button b = { s.button b with cnt := s.cnt.get b + 1#3 }) ∧
      (s.raw.get b = level → (s.cnt.get b).toNat = 3 →
        (tick req s).button b = { s.button b with cnt := 0#3, deb := level }) ∧
      (s.raw.get b = false → level = true →
        (tick req s).button b = { s.button b with raw := true, cnt := 0#3, edge := true }) ∧
      (s.raw.get b = true → level = false →
        (tick req s).button b = { s.button b with raw := false, cnt := 0#3 }))

/-- R115, R131, R132, R134: on the shift-register backend a TICK adds exactly the 74 events of R134 for the row SCAN had before it
and that row's front-grid word, in their order; where the clock lines are at 0 before (the invariant `linesQuiet`) it latches the
one-hot row and the complement of the word, once, both latches together. -/
def Obligations.TickLatchesScanRow : Prop :=
  ∀ (s : State) (req : Bool), s.backend = .sr →
    ∃ es, (tick req s).out = s.out ++ es ∧ es = rowSequence s.scan (memRead s (rowAddr s.front s.scan)) ∧ es.length = 74 ∧
      (s.sr.quiet = true →
        (tick req s).sr.rowLatch = 1#8 <<< s.scan.toNat ∧ (tick req s).sr.rowSr = 1#8 <<< s.scan.toNat ∧
        (tick req s).sr.colLatch = ~~~(memRead s (rowAddr s.front s.scan)) ∧
        (tick req s).sr.colSr = ~~~(memRead s (rowAddr s.front s.scan)) ∧
        (tick req s).sr.quiet = true ∧
        latchTrace s.sr es = [.latched (1#8 <<< s.scan.toNat) (~~~(memRead s (rowAddr s.front s.scan)))])

/-- R137: on the framebuffer backend a TICK emits the eight rectangles of row SCAN in column order, each in its cell's palette
colour, and drives no line. -/
def Obligations.TickFillsScanRow : Prop :=
  ∀ (s : State) (req : Bool), s.backend = .fb →
    (tick req s).sr = s.sr ∧
    (tick req s).out = s.out ++ (List.range 8).map fun c =>
      .fillRect (s.params.originX + c * s.params.cellW) (s.params.originY + s.scan.toNat * s.params.cellH)
        s.params.cellW s.params.cellH (s.lut.get (cell (memRead s (rowAddr s.front s.scan)) c))

/-- R117: SCAN and BTNCUR run freely: after n ticks from 0 they are n mod 8 and n mod 5, whatever requests arrive meanwhile, and
SWAP resets neither. -/
def Obligations.CursorsAfterTicks : Prop :=
  (∀ (reqs : List Bool) (s : State), s.scan = 0#3 → s.btnCur = 0 →
    (reqs.foldl (fun u req => tick req u) s).scan.toNat = reqs.length % 8 ∧
    (reqs.foldl (fun u req => tick req u) s).btnCur.val = reqs.length % 5) ∧
  ∀ s t : State, exec .swap s = .next t → t.scan = s.scan ∧ t.btnCur = s.btnCur

/-- R49 (a): TICK never reads the back grid. Two states that differ in their grid RAM only, and agree on the front grid, tick
alike. -/
def Obligations.TickIgnoresBackGrid : Prop :=
  ∀ (s : State) (m : Memory) (req : Bool),
    (∀ r : RowIndex, m.read (rowAddr s.front r).toNat = memRead s (rowAddr s.front r)) →
      tick req { s with grid := m } = { tick req s with grid := m }

/-! ## The renderer and the debounce rule -/

/-- R132, R133, R134: the pin sequence, run on chains that held anything with the clock lines at 0, leaves both chains and both
latches at the intended values and every clock line at 0; it is 74 line writes. -/
def Obligations.PinSequenceLoadsLatches : Prop :=
  ∀ (p : SerialPort) (col : BitVec 16) (row : BitVec 8), p.quiet = true →
    (pinSequence col row).length = 74 ∧
    p.driveAll (pinSequence col row) =
      { rowSr := row
        colSr := col
        rowLatch := row
        colLatch := col
        colData := col.getLsbD 0
        colClk := false
        rowData := row.getLsbD 0
        rowClk := false
        latch := false }

/-- R135: after a row render the LED of colour bit k in column c is lit exactly in row r where w[2c+k] = 1. -/
def Obligations.LitLedsAreTheRowBits : Prop :=
  ∀ (r : RowIndex) (w : RowWord) (s : State), s.sr.quiet = true →
    ∀ row c k : Nat, row < 8 → c < 8 → k < 2 →
      (renderRowSR r w s).sr.lit row c k = (decide (row = r.toNat) && w.getLsbD (2 * c + k))

/-- R136: after the blank no LED is lit, and the chains and latches hold the blank pattern. -/
def Obligations.BlankLightsNoLed : Prop :=
  ∀ s : State, s.sr.quiet = true →
    (blankSR s).sr.rowSr = 0x00#8 ∧ (blankSR s).sr.rowLatch = 0x00#8 ∧
    (blankSR s).sr.colSr = 0xFFFF#16 ∧ (blankSR s).sr.colLatch = 0xFFFF#16 ∧
    ∀ row c k : Nat, (blankSR s).sr.lit row c k = false

/-- R103 items 1, 2 and 4: a new level is committed on the fifth sample that shows it and on none before, a level gone on the
fifth is not committed, and a press sets the edge flag on its first sample. -/
def Obligations.FiveSamplesCommitALevel : Prop :=
  ∀ (q : Button) (level : Bool), q.raw = !level →
    (∀ n, 1 ≤ n → n ≤ 4 → ((debounce level)^[n] q).deb = q.deb ∧ ((debounce level)^[n] q).cnt.toNat = n - 1 ∧
      ((debounce level)^[n] q).raw = level ∧ ((debounce level)^[n] q).edge = (level || q.edge)) ∧
    ((debounce level)^[5] q).deb = level ∧ ((debounce level)^[5] q).cnt = 0#3 ∧
    (∀ n, 1 ≤ n → n ≤ 4 → (debounce (!level) ((debounce level)^[n] q)).deb = q.deb)

/-! ## Frames and whole-machine rules -/

/-- R38: which host command may write which state. -/
def Obligations.HostWriteRights : Prop :=
  ∀ (i : Instr) (s t : State), exec i s = .next t →
    (t.raw = s.raw ∧ t.cnt = s.cnt ∧ t.deb = s.deb ∧ t.btnCur = s.btnCur) ∧
    (t.cmd = s.cmd ∧ t.turns = s.turns ∧ t.pinDraws = s.pinDraws ∧ t.draws = s.draws ∧ t.params = s.params ∧
      t.heldMarks = s.heldMarks ∧ t.tickSource = s.tickSource) ∧
    (t.tpend = s.tpend ∧ (s.imask = false → t.imask = false)) ∧
    (i ≠ .swap → t.front = s.front ∧ t.ticks = s.ticks ∧ t.lastTicks = s.lastTicks ∧ t.edge = s.edge ∧
      t.appEdge = s.appEdge ∧ t.appLevel = s.appLevel ∧ t.textShadow = s.textShadow ∧ t.hphase = s.hphase) ∧
    (i ≠ .refresh → t.scan = s.scan ∧ t.sr = s.sr) ∧
    (i ≠ .refresh ∧ i ≠ .swap → t.out = s.out) ∧
    ((∀ text, i ≠ .settext text ∧ i ≠ .apptext text) → t.textCur = s.textCur) ∧
    ((∀ k en table, i ≠ .begin k en table) →
      t.lut = s.lut ∧ t.backend = s.backend ∧ t.schedEn = s.schedEn ∧ t.init = s.init) ∧
    ((∀ x y c a d, i ≠ .setpix x y c ∧ i ≠ .clear ∧ i ≠ .strow a d) → t.grid = s.grid) ∧
    ((∀ b a, i ≠ .getbuf ∧ i ≠ .getlvl b ∧ i ≠ .getedge b ∧ i ≠ .getticks ∧ i ≠ .ldrow a) → t.resp = s.resp) ∧
    (∃ v, t.resp = s.resp ∨ t.resp = s.resp ++ [v])

/-- R38, R196: a host that keeps STROW to the back grid writes no word of the front grid by any command. -/
def Obligations.FrontGridIsNeverWritten : Prop :=
  ∀ (i : Instr) (s t : State), exec i s = .next t → writesBackGrid i s = true →
    ∀ r : RowIndex, memRead t (rowAddr s.front r) = memRead s (rowAddr s.front r)

/-- R31, R29, R32, R30: once BEGIN has executed, no step changes the backend, the scheduler choice, the palette or INIT. -/
def Obligations.ModeIsFixedAfterBegin : Prop :=
  ∀ s t : State, s.init = true → step s = .next t →
    t.init = true ∧ t.backend = s.backend ∧ t.schedEn = s.schedEn ∧ t.lut = s.lut ∧ t.params = s.params

/-- R160, R191: before BEGIN no step but BEGIN's changes anything of the block: only the model's schedule moves (log entry 3). -/
def Obligations.OnlyBeginActsBeforeBegin : Prop :=
  ∀ s t : State, s.init = false → step s = .next t →
    (∃ k en table rest, decode s.cmd = .instr (.begin k en table) rest ∧ t.init = true) ∨
    { t with turns := s.turns } = { s with hphase := t.hphase } ∧ (s.hphase = .idle → t.hphase = .idle)

/-- R119: in manual mode no tick is counted and no button sampled: the tick counts and all button state stay at their reset
values. -/
def Obligations.ManualModeStaysQuiet : Prop :=
  ∀ s t : State,
    s.schedEn = false → t.schedEn = false → step s = .next t →
    s.ticks = 0#32 ∧ s.lastTicks = 0#32 ∧ s.btnCur = 0 ∧ s.raw = .all false ∧ s.cnt = .all 0#3 ∧ s.deb = .all false ∧
      s.edge = .all false ∧ s.appLevel = .all false ∧ s.appEdge = .all false →
    t.ticks = 0#32 ∧ t.lastTicks = 0#32 ∧ t.btnCur = 0 ∧ t.raw = .all false ∧ t.cnt = .all 0#3 ∧ t.deb = .all false ∧
      t.edge = .all false ∧ t.appLevel = .all false ∧ t.appEdge = .all false

/-- R152: on the shift-register backend no step changes TEXT_SHADOW or emits an OVERLAY. -/
def Obligations.ShiftRegisterNeverDrawsText : Prop :=
  ∀ s t : State, s.backend = .sr → s.init = true → step s = .next t →
    t.textShadow = s.textShadow ∧ ∃ es, t.out = s.out ++ es ∧ ∀ text, Event.overlay text ∉ es

/-- R37: the output trace and the response trace are append-only, for every step. -/
def Obligations.TracesOnlyGrow : Prop :=
  ∀ s t : State, step s = .next t → s.out <+: t.out ∧ s.resp <+: t.resp

/-- The step keeps the machine's invariant (R22, R27, R28, R32, R33, R34, R36, R40, R87, R115), from every state that meets it. -/
def Obligations.StepKeepsTheInvariant : Prop :=
  ∀ s t : State, Inv s → step s = .next t → Inv t

/-- The reset state meets the invariant (R39; the parameters it takes are unknown values in range, log entry 5). -/
def Obligations.ResetMeetsTheInvariant : Prop := Inv State.reset

/-- R39: the reset value of every register the spec gives one (the chains and latches are unspecified). -/
def Obligations.ResetValues : Prop :=
  (∀ a : GridAddr, memRead State.reset a = 0x0000#16) ∧
  State.reset.front = 0#1 ∧ State.reset.scan = 0#3 ∧ State.reset.btnCur = 0 ∧ State.reset.hphase = .idle ∧
  State.reset.ticks = 0#32 ∧ State.reset.lastTicks = 0#32 ∧
  (∀ b : Fin 5, State.reset.raw.get b = false ∧ State.reset.cnt.get b = 0#3 ∧ State.reset.deb.get b = false ∧
    State.reset.edge.get b = false ∧ State.reset.appLevel.get b = false ∧ State.reset.appEdge.get b = false) ∧
  State.reset.textCur = [] ∧ State.reset.textShadow = [] ∧
  State.reset.lut = { e0 := 0x0000#16, e1 := 0xF800#16, e2 := 0x07E0#16, e3 := 0xFFE0#16 } ∧
  State.reset.init = false ∧ State.reset.backend = .sr ∧ State.reset.schedEn = false ∧
  State.reset.imask = false ∧ State.reset.tpend = false ∧
  State.reset.sr.colData = false ∧ State.reset.sr.colClk = false ∧ State.reset.sr.rowData = false ∧
  State.reset.sr.rowClk = false ∧ State.reset.sr.latch = false ∧ State.reset.out = []

/-- R40, R41: the canonical form of the grid RAM is unique: two canonical memories that read alike at all 16 addresses are
equal. -/
def Obligations.CanonicalMemoriesAreEqual : Prop :=
  ∀ m n : Memory, m.wf = true → n.wf = true → (∀ a : GridAddr, m.read a.toNat = n.read a.toNat) → m = n

/-! ## Scenarios of the rules -/

/-- R86: two SWAPs restore the original designation of the grids and copy no word. -/
def Obligations.TwoSwapsRestoreRoles : Prop :=
  ∀ s : State, s.init = true →
    ∃ t u, exec .swap s = .next t ∧ exec .swap t = .next u ∧ t.front ≠ s.front ∧ u.front = s.front ∧
      ∀ a : GridAddr, memRead t a = memRead s a ∧ memRead u a = memRead s a

/-- R92: CLEAR; SETPIX 0, 0, 1; SWAP from any state after BEGIN: the front grid then shows colorA in row 0, column 0 and 0
elsewhere, and the other grid is what it was. -/
def Obligations.DrawnPixelIsInFrontAfterSwap : Prop :=
  ∀ s : State, s.init = true →
    ∃ t u v, exec .clear s = .next t ∧ exec (.setpix 0#8 0#8 1#2) t = .next u ∧ exec .swap u = .next v ∧
      (∀ (r : RowIndex) (c : Nat), c < 8 →
        cell (memRead v (rowAddr v.front r)) c = if r = 0#3 ∧ c = 0 then 1#2 else 0#2) ∧
      ∀ r : RowIndex, memRead v (rowAddr (1#1 - v.front) r) = memRead s (rowAddr s.front r)

/-- R153 item 1: SETTEXT of one text twice, a SWAP after each: at most one OVERLAY, and none where the second finds the text
already drawn. -/
def Obligations.SameTextIsDrawnOnce : Prop :=
  ∀ (text : List Byte) (s : State), s.init = true → s.backend = .fb → text.length ≤ s.params.textMax →
    ∃ t u v w, exec (.settext text) s = .next t ∧ exec .swap t = .next u ∧ exec (.settext text) u = .next v ∧
      exec .swap v = .next w ∧
      u.out = (if text = s.textShadow then s.out else s.out ++ [.overlay text]) ∧ w.out = u.out ∧ w.textShadow = text

/-- R90: the two ticks that end SWAP's wait render exactly the rows SCAN and SCAN+1 of the new front grid, SCAN as it stood at
the critical section: on the shift-register backend the events of R134 for the two rows (and their two latchings, where the clock
lines are at 0 before), on the framebuffer backend the sixteen rectangles of R137. -/
def Obligations.SwapWaitRendersTwoRows : Prop :=
  ∀ (s : State) (r1 r2 : Bool), s.init = true →
    ∃ t, exec .swap s = .next t ∧ (tick r2 (tick r1 t)).ticks = 2#32 ∧
      (s.backend = .sr → ∃ es, (tick r2 (tick r1 t)).out = s.out ++ es ∧
        es = rowSequence s.scan (memRead s (rowAddr (1#1 - s.front) s.scan)) ++
          rowSequence (s.scan + 1#3) (memRead s (rowAddr (1#1 - s.front) (s.scan + 1#3))) ∧
        (s.sr.quiet = true → latchTrace s.sr es =
          [.latched (1#8 <<< s.scan.toNat) (~~~(memRead s (rowAddr (1#1 - s.front) s.scan))),
           .latched (1#8 <<< (s.scan + 1#3).toNat) (~~~(memRead s (rowAddr (1#1 - s.front) (s.scan + 1#3))))])) ∧
      (s.backend = .fb → (tick r2 (tick r1 t)).sr = s.sr ∧ (tick r2 (tick r1 t)).out = t.out ++
        rowRectangles s.params s.lut s.scan (memRead s (rowAddr (1#1 - s.front) s.scan)) ++
        rowRectangles s.params s.lut (s.scan + 1#3) (memRead s (rowAddr (1#1 - s.front) (s.scan + 1#3))))
end

