-- ==== Sys2Proof/Laws/Codec.lean ====
section
/-! SUPPORT. The laws of the command encoding: fields of a word as quotients and remainders of its number, what the decoder
reads from each header the encoder forms, and a text's payload words giving back its bytes. -/

namespace Sys2Proof

/-! ## Fields and concatenations as numbers -/

theorem toNat_append_eq {n m : Nat} (x : BitVec n) (y : BitVec m) : (x ++ y).toNat = x.toNat * 2 ^ m + y.toNat := by
  rw [BitVec.toNat_append, Nat.shiftLeft_eq, Nat.mul_comm, ← Nat.two_pow_add_eq_or_of_lt y.isLt]

theorem field_toNat {n : Nat} (h : BitVec n) (lo len : Nat) :
    (h.extractLsb' lo len).toNat = h.toNat / 2 ^ lo % 2 ^ len := by
  rw [BitVec.extractLsb'_toNat, Nat.shiftRight_eq_div_pow]

/-- A field is a value exactly when its number is the value's. -/
theorem field_eq_iff {n : Nat} (h : BitVec n) (lo len : Nat) (v : BitVec len) :
    h.extractLsb' lo len = v ↔ h.toNat / 2 ^ lo % 2 ^ len = v.toNat := by
  rw [← field_toNat, BitVec.toNat_inj]

theorem headerN_toNat (op : BitVec 4) : (headerN op).toNat = op.toNat * 2 ^ 28 := by
  refine (toNat_append_eq op 0#28).trans ?_
  simp only [BitVec.toNat_ofNat]
  omega

theorem headerP_toNat (c : ColourIndex) (y x : Byte) :
    (headerP c y x).toNat = 3 * 2 ^ 28 + c.toNat * 2 ^ 16 + y.toNat * 2 ^ 8 + x.toNat := by
  refine (toNat_append_eq (0x3#4 ++ 0#10 ++ c ++ y) x).trans ?_
  simp only [toNat_append_eq, BitVec.toNat_ofNat]
  omega

theorem headerB_toNat (op : BitVec 4) (b : BitVec 3) : (headerB op b).toNat = op.toNat * 2 ^ 28 + b.toNat := by
  refine (toNat_append_eq (op ++ 0#25) b).trans ?_
  simp only [toNat_append_eq, BitVec.toNat_ofNat]
  omega

theorem headerA_toNat (a : GridAddr) : (headerA a).toNat = 12 * 2 ^ 28 + a.toNat := by
  refine (toNat_append_eq (0xC#4 ++ 0#24) a).trans ?_
  simp only [toNat_append_eq, BitVec.toNat_ofNat]
  omega

theorem headerW_toNat (a : GridAddr) (d : RowWord) :
    (headerW a d).toNat = 13 * 2 ^ 28 + a.toNat * 2 ^ 16 + d.toNat := by
  refine (toNat_append_eq (0xD#4 ++ 0#8 ++ a) d).trans ?_
  simp only [toNat_append_eq, BitVec.toNat_ofNat]
  omega

theorem headerT_toNat (op : BitVec 4) (len : Byte) : (headerT op len).toNat = op.toNat * 2 ^ 28 + len.toNat := by
  refine (toNat_append_eq (op ++ 0#20) len).trans ?_
  simp only [toNat_append_eq, BitVec.toNat_ofNat]
  omega

theorem wordOfTriplet_toNat (t : Triplet) :
    (wordOfTriplet t).toNat = t.r.toNat * 2 ^ 16 + t.g.toNat * 2 ^ 8 + t.bl.toNat := by
  refine (toNat_append_eq (0#8 ++ t.r ++ t.g) t.bl).trans ?_
  simp only [toNat_append_eq, BitVec.toNat_ofNat]
  omega

theorem wordOfBytes_toNat (b0 b1 b2 b3 : Byte) :
    (wordOfBytes b0 b1 b2 b3).toNat = b3.toNat * 2 ^ 24 + b2.toNat * 2 ^ 16 + b1.toNat * 2 ^ 8 + b0.toNat := by
  refine (toNat_append_eq (b3 ++ b2 ++ b1) b0).trans ?_
  simp only [toNat_append_eq]
  omega

/-! ## What the decoder reads from each header -/

theorem decodeHeader_headerM_none (k : Backend) (s : Bool) :
    decodeHeader (headerM false s (backendBit k)) = .ok (.single (.begin k s none)) := by
  cases k <;> cases s <;> decide

theorem decodeHeader_headerM_table (k : Backend) (s : Bool) :
    decodeHeader (headerM true s (backendBit k)) = .ok (.table k s) := by
  cases k <;> cases s <;> decide

theorem decodeHeader_headerP (c : ColourIndex) (y x : Byte) :
    decodeHeader (headerP c y x) = .ok (.single (.setpix x y c)) := by
  have hn := headerP_toNat c y x
  have hop : (opField (headerP c y x)).toNat = 3 := by
    rw [opField, field_toNat]
    omega
  have hz : (headerP c y x).extractLsb' 18 10 = 0#10 := by
    rw [field_eq_iff]
    simp
    omega
  have hx : (headerP c y x).extractLsb' 0 8 = x := by
    rw [field_eq_iff]
    omega
  have hy : (headerP c y x).extractLsb' 8 8 = y := by
    rw [field_eq_iff]
    omega
  have hc : (headerP c y x).extractLsb' 16 2 = c := by
    rw [field_eq_iff]
    omega
  simp [decodeHeader, hop, decodeP, hz, hx, hy, hc]

theorem decodeHeader_headerA (a : GridAddr) : decodeHeader (headerA a) = .ok (.single (.ldrow a)) := by
  have hn := headerA_toNat a
  have hop : (opField (headerA a)).toNat = 12 := by
    rw [opField, field_toNat]
    omega
  have hz : (headerA a).extractLsb' 4 24 = 0#24 := by
    rw [field_eq_iff]
    simp
    omega
  have ha : (headerA a).extractLsb' 0 4 = a := by
    rw [field_eq_iff]
    omega
  simp [decodeHeader, hop, decodeA, hz, ha]

theorem decodeHeader_headerW (a : GridAddr) (d : RowWord) :
    decodeHeader (headerW a d) = .ok (.single (.strow a d)) := by
  have hn := headerW_toNat a d
  have hop : (opField (headerW a d)).toNat = 13 := by
    rw [opField, field_toNat]
    omega
  have hz : (headerW a d).extractLsb' 20 8 = 0#8 := by
    rw [field_eq_iff]
    simp
    omega
  have ha : (headerW a d).extractLsb' 16 4 = a := by
    rw [field_eq_iff]
    omega
  have hd : (headerW a d).extractLsb' 0 16 = d := by
    rw [field_eq_iff]
    omega
  simp [decodeHeader, hop, decodeW, hz, ha, hd]

/-- The fields of format B. -/
theorem decodeB_headerB (op : BitVec 4) (b : BitVec 3) (mk : BitVec 3 → Instr) :
    opField (headerB op b) = op ∧ decodeB (headerB op b) mk = .ok (.single (mk b)) := by
  have hn := headerB_toNat op b
  have hz : (headerB op b).extractLsb' 3 25 = 0#25 := by
    rw [field_eq_iff]
    simp
    omega
  have hb : (headerB op b).extractLsb' 0 3 = b := by
    rw [field_eq_iff]
    omega
  refine ⟨?_, by simp [decodeB, hz, hb]⟩
  rw [opField, field_eq_iff]
  omega

theorem decodeHeader_getlvl (b : BitVec 3) : decodeHeader (headerB 0x6#4 b) = .ok (.single (.getlvl b)) := by
  have h := decodeB_headerB 0x6#4 b .getlvl
  simp [decodeHeader, h.1, h.2]

theorem decodeHeader_getedge (b : BitVec 3) : decodeHeader (headerB 0x7#4 b) = .ok (.single (.getedge b)) := by
  have h := decodeB_headerB 0x7#4 b .getedge
  simp [decodeHeader, h.1, h.2]

/-- The fields of format T. -/
theorem decodeT_headerT (op : BitVec 4) (len : Byte) (append : Bool) :
    opField (headerT op len) = op ∧ decodeT (headerT op len) append = .ok (.text append len) := by
  have hn := headerT_toNat op len
  have hz : (headerT op len).extractLsb' 8 20 = 0#20 := by
    rw [field_eq_iff]
    simp
    omega
  have hl : (headerT op len).extractLsb' 0 8 = len := by
    rw [field_eq_iff]
    omega
  refine ⟨?_, by simp [decodeT, hz, hl]⟩
  rw [opField, field_eq_iff]
  omega

theorem decodeHeader_settext (len : Byte) : decodeHeader (headerT 0xA#4 len) = .ok (.text false len) := by
  have h := decodeT_headerT 0xA#4 len false
  simp [decodeHeader, h.1, h.2]

theorem decodeHeader_apptext (len : Byte) : decodeHeader (headerT 0xB#4 len) = .ok (.text true len) := by
  have h := decodeT_headerT 0xB#4 len true
  simp [decodeHeader, h.1, h.2]

/-! ## Payloads -/

theorem tripletOfWord_wordOfTriplet (t : Triplet) : tripletOfWord (wordOfTriplet t) = some t := by
  have hn := wordOfTriplet_toNat t
  have hz : (wordOfTriplet t).extractLsb' 24 8 = 0#8 := by
    rw [field_eq_iff]
    simp
    omega
  have hr : (wordOfTriplet t).extractLsb' 16 8 = t.r := by
    rw [field_eq_iff]
    omega
  have hg : (wordOfTriplet t).extractLsb' 8 8 = t.g := by
    rw [field_eq_iff]
    omega
  have hb : (wordOfTriplet t).extractLsb' 0 8 = t.bl := by
    rw [field_eq_iff]
    omega
  rw [tripletOfWord, if_pos hz, hr, hg, hb]

theorem bytesOfWord_wordOfBytes (b0 b1 b2 b3 : Byte) : bytesOfWord (wordOfBytes b0 b1 b2 b3) = [b0, b1, b2, b3] := by
  have hn := wordOfBytes_toNat b0 b1 b2 b3
  have h0 : (wordOfBytes b0 b1 b2 b3).extractLsb' 0 8 = b0 := by
    rw [field_eq_iff]
    omega
  have h1 : (wordOfBytes b0 b1 b2 b3).extractLsb' 8 8 = b1 := by
    rw [field_eq_iff]
    omega
  have h2 : (wordOfBytes b0 b1 b2 b3).extractLsb' 16 8 = b2 := by
    rw [field_eq_iff]
    omega
  have h3 : (wordOfBytes b0 b1 b2 b3).extractLsb' 24 8 = b3 := by
    rw [field_eq_iff]
    omega
  rw [bytesOfWord, h0, h1, h2, h3]

/-- A word is the word of its four bytes. -/
theorem wordOfBytes_fields (w : Word) :
    wordOfBytes (w.extractLsb' 0 8) (w.extractLsb' 8 8) (w.extractLsb' 16 8) (w.extractLsb' 24 8) = w := by
  apply BitVec.eq_of_toNat_eq
  rw [wordOfBytes_toNat]
  simp only [field_toNat]
  omega

/-- A text of n bytes takes ceil(n/4) payload words (R67). -/
theorem wordsOfText_length (text : List Byte) : (wordsOfText text).length = (text.length + 3) / 4 := by
  induction text using wordsOfText.induct with
  | case1 => rfl
  | case2 b0 => simp [wordsOfText]
  | case3 b0 b1 => simp [wordsOfText]
  | case4 b0 b1 b2 => simp [wordsOfText]
  | case5 b0 b1 b2 b3 bs ih =>
    simp only [wordsOfText, List.length_cons, ih]
    omega

/-- The payload's bytes are the text and then zero bytes. -/
theorem bytesOfWords_wordsOfText (text : List Byte) :
    ∃ n, bytesOfWords (wordsOfText text) = text ++ List.replicate n 0#8 := by
  induction text using wordsOfText.induct with
  | case1 => exact ⟨0, rfl⟩
  | case2 b0 => exact ⟨3, by simp [wordsOfText, bytesOfWords, bytesOfWord_wordOfBytes, List.replicate]⟩
  | case3 b0 b1 => exact ⟨2, by simp [wordsOfText, bytesOfWords, bytesOfWord_wordOfBytes, List.replicate]⟩
  | case4 b0 b1 b2 => exact ⟨1, by simp [wordsOfText, bytesOfWords, bytesOfWord_wordOfBytes]⟩
  | case5 b0 b1 b2 b3 bs ih =>
    obtain ⟨n, hn⟩ := ih
    exact ⟨n, by simp [wordsOfText, bytesOfWords, bytesOfWord_wordOfBytes, hn]⟩

/-- A text's payload words give the text back. -/
theorem textOfPayload_wordsOfText (text : List Byte) : textOfPayload text.length (wordsOfText text) = some text := by
  obtain ⟨n, hn⟩ := bytesOfWords_wordsOfText text
  simp [textOfPayload, hn]

/-- The length field of an encodable text is its length. -/
theorem lengthField_toNat {text : List Byte} (h : textEncodable text = true) :
    (BitVec.ofNat 8 text.length).toNat = text.length := by
  have h : text.length ≤ 255 := by simpa [textEncodable] using h
  simp
  omega

/-! ## The decoder -/

/-- Everything `decode` can answer for words that begin with a header. -/
theorem decode_cons (h : Word) (rest : List Word) :
    (∃ e, decodeHeader h = .error e ∧ decode (h :: rest) = .rejected e) ∨
    ∃ hd, decodeHeader h = .ok hd ∧
      ((rest.length < hd.payloadWords ∧ decode (h :: rest) = .incomplete) ∨
        hd.payloadWords ≤ rest.length ∧
          ((∃ i, assemble hd (rest.take hd.payloadWords) = some i ∧
              decode (h :: rest) = .instr i (rest.drop hd.payloadWords)) ∨
            assemble hd (rest.take hd.payloadWords) = none ∧ decode (h :: rest) = .rejected .payloadMustBeZero)) := by
  cases hh : decodeHeader h with
  | error e => exact .inl ⟨e, rfl, by simp [decode, hh]⟩
  | ok hd =>
    refine .inr ⟨hd, rfl, ?_⟩
    by_cases hl : rest.length < hd.payloadWords
    · exact .inl ⟨hl, by simp [decode, hh, hl]⟩
    · refine .inr ⟨Nat.le_of_not_lt hl, ?_⟩
      cases ha : assemble hd (rest.take hd.payloadWords) with
      | some i => exact .inl ⟨i, rfl, by simp [decode, hh, hl, ha]⟩
      | none => exact .inr ⟨rfl, by simp [decode, hh, hl, ha]⟩

/-- A header with its whole payload, and any words after it. -/
theorem decode_header_payload {h : Word} {hd : Header} {ws rest : List Word} {i : Instr}
    (hh : decodeHeader h = .ok hd) (hl : ws.length = hd.payloadWords) (ha : assemble hd ws = some i) :
    decode (h :: (ws ++ rest)) = .instr i rest := by
  simp [decode, hh, ← hl, ha]

end Sys2Proof
end

