-- ==== Sys2Proof/Laws/State.lean ====
section
/-! SUPPORT. The fields of the state after each basic update: one lemma a field, true by rfl, so that no later proof unfolds a
record update. -/

namespace Sys2Proof.Machine

/-! ## memWrite -/

section
variable (s : State) (a : GridAddr) (v : RowWord)

@[simp] theorem memWrite_grid : (memWrite s a v).grid = s.grid.write a.toNat v := rfl
@[simp] theorem memWrite_front : (memWrite s a v).front = s.front := rfl
@[simp] theorem memWrite_scan : (memWrite s a v).scan = s.scan := rfl
@[simp] theorem memWrite_btnCur : (memWrite s a v).btnCur = s.btnCur := rfl
@[simp] theorem memWrite_hphase : (memWrite s a v).hphase = s.hphase := rfl
@[simp] theorem memWrite_ticks : (memWrite s a v).ticks = s.ticks := rfl
@[simp] theorem memWrite_lastTicks : (memWrite s a v).lastTicks = s.lastTicks := rfl
@[simp] theorem memWrite_raw : (memWrite s a v).raw = s.raw := rfl
@[simp] theorem memWrite_cnt : (memWrite s a v).cnt = s.cnt := rfl
@[simp] theorem memWrite_deb : (memWrite s a v).deb = s.deb := rfl
@[simp] theorem memWrite_edge : (memWrite s a v).edge = s.edge := rfl
@[simp] theorem memWrite_appLevel : (memWrite s a v).appLevel = s.appLevel := rfl
@[simp] theorem memWrite_appEdge : (memWrite s a v).appEdge = s.appEdge := rfl
@[simp] theorem memWrite_textCur : (memWrite s a v).textCur = s.textCur := rfl
@[simp] theorem memWrite_textShadow : (memWrite s a v).textShadow = s.textShadow := rfl
@[simp] theorem memWrite_lut : (memWrite s a v).lut = s.lut := rfl
@[simp] theorem memWrite_init : (memWrite s a v).init = s.init := rfl
@[simp] theorem memWrite_backend : (memWrite s a v).backend = s.backend := rfl
@[simp] theorem memWrite_schedEn : (memWrite s a v).schedEn = s.schedEn := rfl
@[simp] theorem memWrite_imask : (memWrite s a v).imask = s.imask := rfl
@[simp] theorem memWrite_tpend : (memWrite s a v).tpend = s.tpend := rfl
@[simp] theorem memWrite_sr : (memWrite s a v).sr = s.sr := rfl
@[simp] theorem memWrite_out : (memWrite s a v).out = s.out := rfl
@[simp] theorem memWrite_resp : (memWrite s a v).resp = s.resp := rfl
@[simp] theorem memWrite_cmd : (memWrite s a v).cmd = s.cmd := rfl
@[simp] theorem memWrite_turns : (memWrite s a v).turns = s.turns := rfl
@[simp] theorem memWrite_heldMarks : (memWrite s a v).heldMarks = s.heldMarks := rfl
@[simp] theorem memWrite_tickSource : (memWrite s a v).tickSource = s.tickSource := rfl
@[simp] theorem memWrite_pinDraws : (memWrite s a v).pinDraws = s.pinDraws := rfl
@[simp] theorem memWrite_draws : (memWrite s a v).draws = s.draws := rfl
@[simp] theorem memWrite_params : (memWrite s a v).params = s.params := rfl

end

/-! ## emit -/

section
variable (es : List Event) (s : State)

@[simp] theorem emit_grid : (emit es s).grid = s.grid := rfl
@[simp] theorem emit_front : (emit es s).front = s.front := rfl
@[simp] theorem emit_scan : (emit es s).scan = s.scan := rfl
@[simp] theorem emit_btnCur : (emit es s).btnCur = s.btnCur := rfl
@[simp] theorem emit_hphase : (emit es s).hphase = s.hphase := rfl
@[simp] theorem emit_ticks : (emit es s).ticks = s.ticks := rfl
@[simp] theorem emit_lastTicks : (emit es s).lastTicks = s.lastTicks := rfl
@[simp] theorem emit_raw : (emit es s).raw = s.raw := rfl
@[simp] theorem emit_cnt : (emit es s).cnt = s.cnt := rfl
@[simp] theorem emit_deb : (emit es s).deb = s.deb := rfl
@[simp] theorem emit_edge : (emit es s).edge = s.edge := rfl
@[simp] theorem emit_appLevel : (emit es s).appLevel = s.appLevel := rfl
@[simp] theorem emit_appEdge : (emit es s).appEdge = s.appEdge := rfl
@[simp] theorem emit_textCur : (emit es s).textCur = s.textCur := rfl
@[simp] theorem emit_textShadow : (emit es s).textShadow = s.textShadow := rfl
@[simp] theorem emit_lut : (emit es s).lut = s.lut := rfl
@[simp] theorem emit_init : (emit es s).init = s.init := rfl
@[simp] theorem emit_backend : (emit es s).backend = s.backend := rfl
@[simp] theorem emit_schedEn : (emit es s).schedEn = s.schedEn := rfl
@[simp] theorem emit_imask : (emit es s).imask = s.imask := rfl
@[simp] theorem emit_tpend : (emit es s).tpend = s.tpend := rfl
@[simp] theorem emit_sr : (emit es s).sr = s.sr := rfl
@[simp] theorem emit_out : (emit es s).out = s.out ++ es := rfl
@[simp] theorem emit_resp : (emit es s).resp = s.resp := rfl
@[simp] theorem emit_cmd : (emit es s).cmd = s.cmd := rfl
@[simp] theorem emit_turns : (emit es s).turns = s.turns := rfl
@[simp] theorem emit_heldMarks : (emit es s).heldMarks = s.heldMarks := rfl
@[simp] theorem emit_tickSource : (emit es s).tickSource = s.tickSource := rfl
@[simp] theorem emit_pinDraws : (emit es s).pinDraws = s.pinDraws := rfl
@[simp] theorem emit_draws : (emit es s).draws = s.draws := rfl
@[simp] theorem emit_params : (emit es s).params = s.params := rfl

end

/-! ## respond -/

section
variable (v : Word) (s : State)

@[simp] theorem respond_grid : (respond v s).grid = s.grid := rfl
@[simp] theorem respond_front : (respond v s).front = s.front := rfl
@[simp] theorem respond_scan : (respond v s).scan = s.scan := rfl
@[simp] theorem respond_btnCur : (respond v s).btnCur = s.btnCur := rfl
@[simp] theorem respond_hphase : (respond v s).hphase = s.hphase := rfl
@[simp] theorem respond_ticks : (respond v s).ticks = s.ticks := rfl
@[simp] theorem respond_lastTicks : (respond v s).lastTicks = s.lastTicks := rfl
@[simp] theorem respond_raw : (respond v s).raw = s.raw := rfl
@[simp] theorem respond_cnt : (respond v s).cnt = s.cnt := rfl
@[simp] theorem respond_deb : (respond v s).deb = s.deb := rfl
@[simp] theorem respond_edge : (respond v s).edge = s.edge := rfl
@[simp] theorem respond_appLevel : (respond v s).appLevel = s.appLevel := rfl
@[simp] theorem respond_appEdge : (respond v s).appEdge = s.appEdge := rfl
@[simp] theorem respond_textCur : (respond v s).textCur = s.textCur := rfl
@[simp] theorem respond_textShadow : (respond v s).textShadow = s.textShadow := rfl
@[simp] theorem respond_lut : (respond v s).lut = s.lut := rfl
@[simp] theorem respond_init : (respond v s).init = s.init := rfl
@[simp] theorem respond_backend : (respond v s).backend = s.backend := rfl
@[simp] theorem respond_schedEn : (respond v s).schedEn = s.schedEn := rfl
@[simp] theorem respond_imask : (respond v s).imask = s.imask := rfl
@[simp] theorem respond_tpend : (respond v s).tpend = s.tpend := rfl
@[simp] theorem respond_sr : (respond v s).sr = s.sr := rfl
@[simp] theorem respond_out : (respond v s).out = s.out := rfl
@[simp] theorem respond_resp : (respond v s).resp = s.resp ++ [v] := rfl
@[simp] theorem respond_cmd : (respond v s).cmd = s.cmd := rfl
@[simp] theorem respond_turns : (respond v s).turns = s.turns := rfl
@[simp] theorem respond_heldMarks : (respond v s).heldMarks = s.heldMarks := rfl
@[simp] theorem respond_tickSource : (respond v s).tickSource = s.tickSource := rfl
@[simp] theorem respond_pinDraws : (respond v s).pinDraws = s.pinDraws := rfl
@[simp] theorem respond_draws : (respond v s).draws = s.draws := rfl
@[simp] theorem respond_params : (respond v s).params = s.params := rfl

end

/-! ## drivePins -/

section
variable (es : List (Line × Bool)) (s : State)

@[simp] theorem drivePins_grid : (drivePins es s).grid = s.grid := rfl
@[simp] theorem drivePins_front : (drivePins es s).front = s.front := rfl
@[simp] theorem drivePins_scan : (drivePins es s).scan = s.scan := rfl
@[simp] theorem drivePins_btnCur : (drivePins es s).btnCur = s.btnCur := rfl
@[simp] theorem drivePins_hphase : (drivePins es s).hphase = s.hphase := rfl
@[simp] theorem drivePins_ticks : (drivePins es s).ticks = s.ticks := rfl
@[simp] theorem drivePins_lastTicks : (drivePins es s).lastTicks = s.lastTicks := rfl
@[simp] theorem drivePins_raw : (drivePins es s).raw = s.raw := rfl
@[simp] theorem drivePins_cnt : (drivePins es s).cnt = s.cnt := rfl
@[simp] theorem drivePins_deb : (drivePins es s).deb = s.deb := rfl
@[simp] theorem drivePins_edge : (drivePins es s).edge = s.edge := rfl
@[simp] theorem drivePins_appLevel : (drivePins es s).appLevel = s.appLevel := rfl
@[simp] theorem drivePins_appEdge : (drivePins es s).appEdge = s.appEdge := rfl
@[simp] theorem drivePins_textCur : (drivePins es s).textCur = s.textCur := rfl
@[simp] theorem drivePins_textShadow : (drivePins es s).textShadow = s.textShadow := rfl
@[simp] theorem drivePins_lut : (drivePins es s).lut = s.lut := rfl
@[simp] theorem drivePins_init : (drivePins es s).init = s.init := rfl
@[simp] theorem drivePins_backend : (drivePins es s).backend = s.backend := rfl
@[simp] theorem drivePins_schedEn : (drivePins es s).schedEn = s.schedEn := rfl
@[simp] theorem drivePins_imask : (drivePins es s).imask = s.imask := rfl
@[simp] theorem drivePins_tpend : (drivePins es s).tpend = s.tpend := rfl
@[simp] theorem drivePins_sr : (drivePins es s).sr = s.sr.driveAll es := rfl
@[simp] theorem drivePins_out : (drivePins es s).out = s.out ++ es.map pinEvent := rfl
@[simp] theorem drivePins_resp : (drivePins es s).resp = s.resp := rfl
@[simp] theorem drivePins_cmd : (drivePins es s).cmd = s.cmd := rfl
@[simp] theorem drivePins_turns : (drivePins es s).turns = s.turns := rfl
@[simp] theorem drivePins_heldMarks : (drivePins es s).heldMarks = s.heldMarks := rfl
@[simp] theorem drivePins_tickSource : (drivePins es s).tickSource = s.tickSource := rfl
@[simp] theorem drivePins_pinDraws : (drivePins es s).pinDraws = s.pinDraws := rfl
@[simp] theorem drivePins_draws : (drivePins es s).draws = s.draws := rfl
@[simp] theorem drivePins_params : (drivePins es s).params = s.params := rfl

end

/-! ## setButton -/

section
variable (s : State) (b : Fin 5) (q : Button)

@[simp] theorem setButton_grid : (s.setButton b q).grid = s.grid := rfl
@[simp] theorem setButton_front : (s.setButton b q).front = s.front := rfl
@[simp] theorem setButton_scan : (s.setButton b q).scan = s.scan := rfl
@[simp] theorem setButton_btnCur : (s.setButton b q).btnCur = s.btnCur := rfl
@[simp] theorem setButton_hphase : (s.setButton b q).hphase = s.hphase := rfl
@[simp] theorem setButton_ticks : (s.setButton b q).ticks = s.ticks := rfl
@[simp] theorem setButton_lastTicks : (s.setButton b q).lastTicks = s.lastTicks := rfl
@[simp] theorem setButton_raw : (s.setButton b q).raw = s.raw.set b q.raw := rfl
@[simp] theorem setButton_cnt : (s.setButton b q).cnt = s.cnt.set b q.cnt := rfl
@[simp] theorem setButton_deb : (s.setButton b q).deb = s.deb.set b q.deb := rfl
@[simp] theorem setButton_edge : (s.setButton b q).edge = s.edge.set b q.edge := rfl
@[simp] theorem setButton_appLevel : (s.setButton b q).appLevel = s.appLevel := rfl
@[simp] theorem setButton_appEdge : (s.setButton b q).appEdge = s.appEdge := rfl
@[simp] theorem setButton_textCur : (s.setButton b q).textCur = s.textCur := rfl
@[simp] theorem setButton_textShadow : (s.setButton b q).textShadow = s.textShadow := rfl
@[simp] theorem setButton_lut : (s.setButton b q).lut = s.lut := rfl
@[simp] theorem setButton_init : (s.setButton b q).init = s.init := rfl
@[simp] theorem setButton_backend : (s.setButton b q).backend = s.backend := rfl
@[simp] theorem setButton_schedEn : (s.setButton b q).schedEn = s.schedEn := rfl
@[simp] theorem setButton_imask : (s.setButton b q).imask = s.imask := rfl
@[simp] theorem setButton_tpend : (s.setButton b q).tpend = s.tpend := rfl
@[simp] theorem setButton_sr : (s.setButton b q).sr = s.sr := rfl
@[simp] theorem setButton_out : (s.setButton b q).out = s.out := rfl
@[simp] theorem setButton_resp : (s.setButton b q).resp = s.resp := rfl
@[simp] theorem setButton_cmd : (s.setButton b q).cmd = s.cmd := rfl
@[simp] theorem setButton_turns : (s.setButton b q).turns = s.turns := rfl
@[simp] theorem setButton_heldMarks : (s.setButton b q).heldMarks = s.heldMarks := rfl
@[simp] theorem setButton_tickSource : (s.setButton b q).tickSource = s.tickSource := rfl
@[simp] theorem setButton_pinDraws : (s.setButton b q).pinDraws = s.pinDraws := rfl
@[simp] theorem setButton_draws : (s.setButton b q).draws = s.draws := rfl
@[simp] theorem setButton_params : (s.setButton b q).params = s.params := rfl

end

/-! ## countTick -/

section
variable (s : State)

@[simp] theorem countTick_grid : (countTick s).grid = s.grid := rfl
@[simp] theorem countTick_front : (countTick s).front = s.front := rfl
@[simp] theorem countTick_scan : (countTick s).scan = s.scan := rfl
@[simp] theorem countTick_btnCur : (countTick s).btnCur = s.btnCur := rfl
@[simp] theorem countTick_hphase : (countTick s).hphase = s.hphase := rfl
@[simp] theorem countTick_ticks : (countTick s).ticks = s.ticks + 1#32 := rfl
@[simp] theorem countTick_lastTicks : (countTick s).lastTicks = s.lastTicks := rfl
@[simp] theorem countTick_raw : (countTick s).raw = s.raw := rfl
@[simp] theorem countTick_cnt : (countTick s).cnt = s.cnt := rfl
@[simp] theorem countTick_deb : (countTick s).deb = s.deb := rfl
@[simp] theorem countTick_edge : (countTick s).edge = s.edge := rfl
@[simp] theorem countTick_appLevel : (countTick s).appLevel = s.appLevel := rfl
@[simp] theorem countTick_appEdge : (countTick s).appEdge = s.appEdge := rfl
@[simp] theorem countTick_textCur : (countTick s).textCur = s.textCur := rfl
@[simp] theorem countTick_textShadow : (countTick s).textShadow = s.textShadow := rfl
@[simp] theorem countTick_lut : (countTick s).lut = s.lut := rfl
@[simp] theorem countTick_init : (countTick s).init = s.init := rfl
@[simp] theorem countTick_backend : (countTick s).backend = s.backend := rfl
@[simp] theorem countTick_schedEn : (countTick s).schedEn = s.schedEn := rfl
@[simp] theorem countTick_imask : (countTick s).imask = s.imask := rfl
@[simp] theorem countTick_tpend : (countTick s).tpend = s.tpend := rfl
@[simp] theorem countTick_sr : (countTick s).sr = s.sr := rfl
@[simp] theorem countTick_out : (countTick s).out = s.out := rfl
@[simp] theorem countTick_resp : (countTick s).resp = s.resp := rfl
@[simp] theorem countTick_cmd : (countTick s).cmd = s.cmd := rfl
@[simp] theorem countTick_turns : (countTick s).turns = s.turns := rfl
@[simp] theorem countTick_heldMarks : (countTick s).heldMarks = s.heldMarks := rfl
@[simp] theorem countTick_tickSource : (countTick s).tickSource = s.tickSource := rfl
@[simp] theorem countTick_pinDraws : (countTick s).pinDraws = s.pinDraws := rfl
@[simp] theorem countTick_draws : (countTick s).draws = s.draws := rfl
@[simp] theorem countTick_params : (countTick s).params = s.params := rfl

end

/-! ## advanceScan -/

section
variable (s : State)

@[simp] theorem advanceScan_grid : (advanceScan s).grid = s.grid := rfl
@[simp] theorem advanceScan_front : (advanceScan s).front = s.front := rfl
@[simp] theorem advanceScan_scan : (advanceScan s).scan = s.scan + 1#3 := rfl
@[simp] theorem advanceScan_btnCur : (advanceScan s).btnCur = s.btnCur := rfl
@[simp] theorem advanceScan_hphase : (advanceScan s).hphase = s.hphase := rfl
@[simp] theorem advanceScan_ticks : (advanceScan s).ticks = s.ticks := rfl
@[simp] theorem advanceScan_lastTicks : (advanceScan s).lastTicks = s.lastTicks := rfl
@[simp] theorem advanceScan_raw : (advanceScan s).raw = s.raw := rfl
@[simp] theorem advanceScan_cnt : (advanceScan s).cnt = s.cnt := rfl
@[simp] theorem advanceScan_deb : (advanceScan s).deb = s.deb := rfl
@[simp] theorem advanceScan_edge : (advanceScan s).edge = s.edge := rfl
@[simp] theorem advanceScan_appLevel : (advanceScan s).appLevel = s.appLevel := rfl
@[simp] theorem advanceScan_appEdge : (advanceScan s).appEdge = s.appEdge := rfl
@[simp] theorem advanceScan_textCur : (advanceScan s).textCur = s.textCur := rfl
@[simp] theorem advanceScan_textShadow : (advanceScan s).textShadow = s.textShadow := rfl
@[simp] theorem advanceScan_lut : (advanceScan s).lut = s.lut := rfl
@[simp] theorem advanceScan_init : (advanceScan s).init = s.init := rfl
@[simp] theorem advanceScan_backend : (advanceScan s).backend = s.backend := rfl
@[simp] theorem advanceScan_schedEn : (advanceScan s).schedEn = s.schedEn := rfl
@[simp] theorem advanceScan_imask : (advanceScan s).imask = s.imask := rfl
@[simp] theorem advanceScan_tpend : (advanceScan s).tpend = s.tpend := rfl
@[simp] theorem advanceScan_sr : (advanceScan s).sr = s.sr := rfl
@[simp] theorem advanceScan_out : (advanceScan s).out = s.out := rfl
@[simp] theorem advanceScan_resp : (advanceScan s).resp = s.resp := rfl
@[simp] theorem advanceScan_cmd : (advanceScan s).cmd = s.cmd := rfl
@[simp] theorem advanceScan_turns : (advanceScan s).turns = s.turns := rfl
@[simp] theorem advanceScan_heldMarks : (advanceScan s).heldMarks = s.heldMarks := rfl
@[simp] theorem advanceScan_tickSource : (advanceScan s).tickSource = s.tickSource := rfl
@[simp] theorem advanceScan_pinDraws : (advanceScan s).pinDraws = s.pinDraws := rfl
@[simp] theorem advanceScan_draws : (advanceScan s).draws = s.draws := rfl
@[simp] theorem advanceScan_params : (advanceScan s).params = s.params := rfl

end

/-! ## advanceButton -/

section
variable (s : State)

@[simp] theorem advanceButton_grid : (advanceButton s).grid = s.grid := rfl
@[simp] theorem advanceButton_front : (advanceButton s).front = s.front := rfl
@[simp] theorem advanceButton_scan : (advanceButton s).scan = s.scan := rfl
@[simp] theorem advanceButton_btnCur : (advanceButton s).btnCur = nextButton s.btnCur := rfl
@[simp] theorem advanceButton_hphase : (advanceButton s).hphase = s.hphase := rfl
@[simp] theorem advanceButton_ticks : (advanceButton s).ticks = s.ticks := rfl
@[simp] theorem advanceButton_lastTicks : (advanceButton s).lastTicks = s.lastTicks := rfl
@[simp] theorem advanceButton_raw : (advanceButton s).raw = s.raw := rfl
@[simp] theorem advanceButton_cnt : (advanceButton s).cnt = s.cnt := rfl
@[simp] theorem advanceButton_deb : (advanceButton s).deb = s.deb := rfl
@[simp] theorem advanceButton_edge : (advanceButton s).edge = s.edge := rfl
@[simp] theorem advanceButton_appLevel : (advanceButton s).appLevel = s.appLevel := rfl
@[simp] theorem advanceButton_appEdge : (advanceButton s).appEdge = s.appEdge := rfl
@[simp] theorem advanceButton_textCur : (advanceButton s).textCur = s.textCur := rfl
@[simp] theorem advanceButton_textShadow : (advanceButton s).textShadow = s.textShadow := rfl
@[simp] theorem advanceButton_lut : (advanceButton s).lut = s.lut := rfl
@[simp] theorem advanceButton_init : (advanceButton s).init = s.init := rfl
@[simp] theorem advanceButton_backend : (advanceButton s).backend = s.backend := rfl
@[simp] theorem advanceButton_schedEn : (advanceButton s).schedEn = s.schedEn := rfl
@[simp] theorem advanceButton_imask : (advanceButton s).imask = s.imask := rfl
@[simp] theorem advanceButton_tpend : (advanceButton s).tpend = s.tpend := rfl
@[simp] theorem advanceButton_sr : (advanceButton s).sr = s.sr := rfl
@[simp] theorem advanceButton_out : (advanceButton s).out = s.out := rfl
@[simp] theorem advanceButton_resp : (advanceButton s).resp = s.resp := rfl
@[simp] theorem advanceButton_cmd : (advanceButton s).cmd = s.cmd := rfl
@[simp] theorem advanceButton_turns : (advanceButton s).turns = s.turns := rfl
@[simp] theorem advanceButton_heldMarks : (advanceButton s).heldMarks = s.heldMarks := rfl
@[simp] theorem advanceButton_tickSource : (advanceButton s).tickSource = s.tickSource := rfl
@[simp] theorem advanceButton_pinDraws : (advanceButton s).pinDraws = s.pinDraws := rfl
@[simp] theorem advanceButton_draws : (advanceButton s).draws = s.draws := rfl
@[simp] theorem advanceButton_params : (advanceButton s).params = s.params := rfl

end

/-! ## atomic and the arrays -/

@[simp] theorem PerButton.get_all {α : Type} (x : α) (b : Fin 5) : (PerButton.all x).get b = x := by
  fin_cases b <;> rfl

@[simp] theorem PerButton.get_set_same {α : Type} (p : PerButton α) (b : Fin 5) (x : α) : (p.set b x).get b = x := by
  fin_cases b <;> rfl

theorem PerButton.get_set_other {α : Type} (p : PerButton α) {b c : Fin 5} (x : α) (h : c ≠ b) :
    (p.set b x).get c = p.get c := by
  fin_cases b <;> fin_cases c <;> first | rfl | exact absurd rfl h

/-- Two arrays with the same elements are the same array. -/
theorem PerButton.ext_get {α : Type} (p q : PerButton α) (h : ∀ b, p.get b = q.get b) : p = q := by
  have h0 := h 0
  have h1 := h 1
  have h2 := h 2
  have h3 := h 3
  have h4 := h 4
  cases p
  cases q
  simp only [PerButton.get] at h0 h1 h2 h3 h4
  subst h0 h1 h2 h3 h4
  rfl

/-- The back grid's number is not the front grid's. -/
theorem State.back_ne_front (s : State) : s.back ≠ s.front := by
  unfold State.back
  generalize s.front = g
  revert g
  decide

/-- The back of the exchanged grids is the old front (R86). -/
theorem State.back_back (s : State) : ~~~s.back = s.front := by
  unfold State.back
  generalize s.front = g
  revert g
  decide

/-- An address is {grid, row} (R40). -/
theorem rowAddr_inj {g h : BitVec 1} {r q : RowIndex} : rowAddr g r = rowAddr h q ↔ g = h ∧ r = q := by
  revert g h r q
  decide

theorem rowAddr_surj (a : GridAddr) : ∃ g r, a = rowAddr g r := by
  revert a
  decide

end Sys2Proof.Machine
end

