-- ==== Sys2Proof/Laws/Memory.lean ====
section
/-! SUPPORT. The laws of the grid RAM: read after write (R41), the canonical form is kept, and canonical memories that read
alike are equal. -/

namespace Sys2Proof.Machine

@[simp] theorem Memory.read_nil (a : Nat) : Memory.read [] a = 0#16 := rfl

theorem Memory.read_erase (m : Memory) (a b : Nat) : (m.erase a).read b = if b = a then 0#16 else m.read b := by
  induction m with
  | nil => simp [Memory.erase]
  | cons e m ih =>
    obtain ⟨k, w⟩ := e
    by_cases hk : k = a
    · subst hk
      rw [Memory.erase, if_pos rfl, ih]
      by_cases hb : b = k
      · simp [hb]
      · simp [hb, Memory.read, Ne.symm hb]
    · by_cases hb : k = b
      · subst hb
        simp [Memory.erase, hk, Memory.read]
      · simp [Memory.erase, hk, Memory.read, hb, ih]

/-- Reading after an insertion into a memory that does not list the address. -/
theorem Memory.read_insert (m : Memory) (a b : Nat) (v : RowWord) (h : ∀ w, (a, w) ∉ m) :
    (m.insert a v).read b = if b = a then v else m.read b := by
  induction m with
  | nil =>
    by_cases hb : a = b
    · simp [Memory.insert, Memory.read, hb]
    · simp [Memory.insert, Memory.read, hb, Ne.symm hb]
  | cons e m ih =>
    obtain ⟨k, w⟩ := e
    have hk : k ≠ a := fun e => h w (by simp [e])
    have ih := ih fun w' hw => h w' (List.mem_cons_of_mem _ hw)
    by_cases hlt : a < k
    · rw [Memory.insert, if_pos hlt]
      by_cases hb : a = b
      · subst hb
        simp [Memory.read]
      · simp [Memory.read, hb, Ne.symm hb]
    · by_cases hb : k = b
      · subst hb
        simp [Memory.insert, hlt, Memory.read, hk]
      · simp [Memory.insert, hlt, Memory.read, hb, ih]

theorem Memory.not_mem_erase (m : Memory) (a : Nat) (w : RowWord) : (a, w) ∉ m.erase a := by
  induction m with
  | nil => simp [Memory.erase]
  | cons e m ih =>
    obtain ⟨k, w'⟩ := e
    by_cases hk : k = a
    · simp [Memory.erase, hk, ih]
    · simp [Memory.erase, hk, ih, Ne.symm hk]

/-- The law of the RAM: a write changes the word at its address and no other (R41). -/
theorem Memory.read_write (m : Memory) (a b : Nat) (v : RowWord) :
    (m.write a v).read b = if b = a then v else m.read b := by
  by_cases hv : v = 0#16
  · subst hv
    simp [Memory.write, Memory.read_erase]
  · rw [Memory.write, if_neg hv, Memory.read_insert _ _ _ _ (Memory.not_mem_erase m a), Memory.read_erase]
    by_cases hb : b = a <;> simp [hb]

/-- The same law on the state, for addresses the block can form. -/
theorem memRead_memWrite (s : State) (a b : GridAddr) (v : RowWord) :
    memRead (memWrite s a v) b = if b = a then v else memRead s b := by
  simp [memRead, Memory.read_write, BitVec.toNat_inj]

/-- A memory write leaves FRONT alone, so the addresses of rows stay what they were. -/
@[simp] theorem back_memWrite (s : State) (a : GridAddr) (v : RowWord) : (memWrite s a v).back = s.back := rfl

@[simp] theorem backAddr_memWrite (s : State) (a : GridAddr) (v : RowWord) (r : RowIndex) :
    backAddr (memWrite s a v) r = backAddr s r := rfl

@[simp] theorem frontAddr_memWrite (s : State) (a : GridAddr) (v : RowWord) (r : RowIndex) :
    frontAddr (memWrite s a v) r = frontAddr s r := rfl

/-- A back-grid address is no front-grid address. -/
theorem backAddr_ne_frontAddr (s : State) (r q : RowIndex) : frontAddr s q ≠ backAddr s r := by
  intro h
  exact s.back_ne_front (rowAddr_inj.mp h).1.symm

/-! ## The canonical form -/

theorem Memory.wfFrom_cons {lo k : Nat} {w : RowWord} {m : Memory} :
    Memory.wfFrom lo ((k, w) :: m) = true ↔ lo ≤ k ∧ k < 16 ∧ w ≠ 0#16 ∧ Memory.wfFrom (k + 1) m = true := by
  simp [Memory.wfFrom, and_assoc]

theorem Memory.wfFrom_mono {lo lo' : Nat} {m : Memory} (h : Memory.wfFrom lo m = true) (hle : lo' ≤ lo) :
    Memory.wfFrom lo' m = true := by
  cases m with
  | nil => rfl
  | cons e m =>
    obtain ⟨k, w⟩ := e
    rw [Memory.wfFrom_cons] at h ⊢
    exact ⟨hle.trans h.1, h.2⟩

theorem Memory.wfFrom_erase {lo : Nat} {m : Memory} (a : Nat) (h : Memory.wfFrom lo m = true) :
    Memory.wfFrom lo (m.erase a) = true := by
  induction m generalizing lo with
  | nil => rfl
  | cons e m ih =>
    obtain ⟨k, w⟩ := e
    rw [Memory.wfFrom_cons] at h
    by_cases hk : k = a
    · rw [Memory.erase, if_pos hk]
      exact Memory.wfFrom_mono (ih h.2.2.2) (by omega)
    · rw [Memory.erase, if_neg hk, Memory.wfFrom_cons]
      exact ⟨h.1, h.2.1, h.2.2.1, ih h.2.2.2⟩

theorem Memory.wfFrom_insert {lo : Nat} {m : Memory} {a : Nat} {v : RowWord} (h : Memory.wfFrom lo m = true)
    (hm : ∀ w, (a, w) ∉ m) (hlo : lo ≤ a) (ha : a < 16) (hv : v ≠ 0#16) : Memory.wfFrom lo (m.insert a v) = true := by
  induction m generalizing lo with
  | nil => simp [Memory.insert, Memory.wfFrom, hlo, ha, hv]
  | cons e m ih =>
    obtain ⟨k, w⟩ := e
    rw [Memory.wfFrom_cons] at h
    have hk : k ≠ a := fun e => hm w (by simp [e])
    by_cases hlt : a < k
    · rw [Memory.insert, if_pos hlt, Memory.wfFrom_cons, Memory.wfFrom_cons]
      exact ⟨hlo, ha, hv, hlt, h.2.1, h.2.2.1, h.2.2.2⟩
    · rw [Memory.insert, if_neg hlt, Memory.wfFrom_cons]
      exact ⟨h.1, h.2.1, h.2.2.1, ih h.2.2.2 (fun w' hw => hm w' (List.mem_cons_of_mem _ hw)) (by omega)⟩

/-- Every write of an address the block can form keeps the canonical form. -/
theorem Memory.wf_write {m : Memory} (a : GridAddr) (v : RowWord) (h : m.wf = true) : (m.write a.toNat v).wf = true := by
  by_cases hv : v = 0#16
  · rw [Memory.write, if_pos hv]
    exact Memory.wfFrom_erase a.toNat h
  · rw [Memory.write, if_neg hv]
    exact Memory.wfFrom_insert (Memory.wfFrom_erase a.toNat h) (Memory.not_mem_erase m a.toNat) (Nat.zero_le _) a.isLt hv

theorem memWrite_wf {s : State} (a : GridAddr) (v : RowWord) (h : s.grid.wf = true) : (memWrite s a v).grid.wf = true :=
  Memory.wf_write a v h

/-- No entry below the bound: such an address reads as 0. -/
theorem Memory.read_below {lo : Nat} {m : Memory} {a : Nat} (h : Memory.wfFrom lo m = true) (ha : a < lo) :
    m.read a = 0#16 := by
  induction m generalizing lo with
  | nil => rfl
  | cons e m ih =>
    obtain ⟨k, w⟩ := e
    rw [Memory.wfFrom_cons] at h
    rw [Memory.read, if_neg (by omega)]
    exact ih h.2.2.2 (by omega)

theorem Memory.read_lt_of_ne {lo : Nat} {m : Memory} {a : Nat} (h : Memory.wfFrom lo m = true) (hr : m.read a ≠ 0#16) :
    a < 16 := by
  induction m generalizing lo with
  | nil => exact absurd rfl hr
  | cons e m ih =>
    obtain ⟨k, w⟩ := e
    rw [Memory.wfFrom_cons] at h
    by_cases hk : k = a
    · omega
    · rw [Memory.read, if_neg hk] at hr
      exact ih h.2.2.2 hr

end Sys2Proof.Machine
end

