-- ==== Sys2Proof/Laws/Render.lean ====
section
/-! SUPPORT. The laws of the serial lines and of the row render: what one data bit and one latch pulse do, how sequences
compose, and that a row render changes the display side only. -/

namespace Sys2Proof.Machine

theorem SerialPort.driveAll_append (p : SerialPort) (xs ys : List (Line × Bool)) :
    p.driveAll (xs ++ ys) = (p.driveAll xs).driveAll ys := by
  induction xs generalizing p with
  | nil => rfl
  | cons e xs ih => simp only [List.cons_append, SerialPort.driveAll, ih]

/-- One column bit shifts the column chain once and leaves COL_CLK at 0 (R133, R134). -/
theorem SerialPort.driveAll_colBitPins (p : SerialPort) (col : BitVec 16) (i : Nat) (h : p.colClk = false) :
    p.driveAll (colBitPins col i) =
      { p with colData := col.getLsbD i, colClk := false, colSr := shiftCol p.colSr (col.getLsbD i) } := by
  simp [colBitPins, SerialPort.driveAll, SerialPort.drive, h]

/-- One row bit shifts the row chain once and leaves ROW_CLK at 0 (R133, R134). -/
theorem SerialPort.driveAll_rowBitPins (p : SerialPort) (row : BitVec 8) (i : Nat) (h : p.rowClk = false) :
    p.driveAll (rowBitPins row i) =
      { p with rowData := row.getLsbD i, rowClk := false, rowSr := shiftRow p.rowSr (row.getLsbD i) } := by
  simp [rowBitPins, SerialPort.driveAll, SerialPort.drive, h]

/-- One latch pulse loads both latches from the chains and leaves LATCH at 0 (R133). -/
theorem SerialPort.driveAll_latchPulse (p : SerialPort) (h : p.latch = false) :
    p.driveAll [(.latch, true), (.latch, false)] =
      { p with latch := false, colLatch := p.colSr, rowLatch := p.rowSr } := by
  simp [SerialPort.driveAll, SerialPort.drive, h]

/-- The clock lines and LATCH at 0, one by one. -/
theorem SerialPort.quiet_iff (p : SerialPort) :
    p.quiet = true ↔ p.colClk = false ∧ p.rowClk = false ∧ p.latch = false := by
  simp [SerialPort.quiet, and_assoc]

theorem SerialPort.drive_eq_driveAll (p : SerialPort) (e : Line × Bool) : p.drive e.1 e.2 = p.driveAll [e] := rfl

/-- The column bits, most significant first, replayed on any chain. -/
def shiftCols (col : BitVec 16) (sr : BitVec 16) (is : List Nat) : BitVec 16 :=
  is.foldl (fun sr i => shiftCol sr (col.getLsbD i)) sr

/-- The row bits, most significant first, replayed on any chain. -/
def shiftRows (row : BitVec 8) (sr : BitVec 8) (is : List Nat) : BitVec 8 :=
  is.foldl (fun sr i => shiftRow sr (row.getLsbD i)) sr

/-- A run of column bits. -/
theorem SerialPort.driveAll_colRun (col : BitVec 16) (is : List Nat) (i : Nat) (p : SerialPort) (h : p.colClk = false) :
    p.driveAll ((is ++ [i]).flatMap (colBitPins col)) =
      { p with colData := col.getLsbD i, colClk := false, colSr := shiftCols col p.colSr (is ++ [i]) } := by
  induction is generalizing p with
  | nil =>
    rw [List.nil_append, List.flatMap_singleton, driveAll_colBitPins p col i h]
    rfl
  | cons j is ih =>
    rw [List.cons_append, List.flatMap_cons, driveAll_append, driveAll_colBitPins p col j h, ih _ rfl]
    rfl

/-- A run of row bits. -/
theorem SerialPort.driveAll_rowRun (row : BitVec 8) (is : List Nat) (i : Nat) (p : SerialPort) (h : p.rowClk = false) :
    p.driveAll ((is ++ [i]).flatMap (rowBitPins row)) =
      { p with rowData := row.getLsbD i, rowClk := false, rowSr := shiftRows row p.rowSr (is ++ [i]) } := by
  induction is generalizing p with
  | nil =>
    rw [List.nil_append, List.flatMap_singleton, driveAll_rowBitPins p row i h]
    rfl
  | cons j is ih =>
    rw [List.cons_append, List.flatMap_cons, driveAll_append, driveAll_rowBitPins p row j h, ih _ rfl]
    rfl

theorem shiftCol_zero (x : BitVec 16) (d : Bool) : (shiftCol x d)[0] = d := by
  have h : (shiftCol x d)[0] = (x.extractLsb' 0 15 ++ BitVec.ofBool d)[0] := rfl
  rw [h, BitVec.getElem_append]
  simp

theorem shiftCol_succ (x : BitVec 16) (d : Bool) (k : Nat) (hk : k + 1 < 16) : (shiftCol x d)[k + 1] = x[k] := by
  have h : (shiftCol x d)[k + 1] = (x.extractLsb' 0 15 ++ BitVec.ofBool d)[k + 1] := rfl
  rw [h, BitVec.getElem_append]
  simp
  exact BitVec.getLsbD_eq_getElem (by omega)

/-- Sixteen column bits fill the column chain, whatever it held. -/
theorem shiftCols_colBits (col sr : BitVec 16) : shiftCols col sr colBits = col := by
  ext i hi
  simp only [shiftCols, colBits, List.foldl]
  interval_cases i <;> simp [shiftCol_zero, shiftCol_succ]

theorem shiftRow_zero (x : BitVec 8) (d : Bool) : (shiftRow x d)[0] = d := by
  have h : (shiftRow x d)[0] = (x.extractLsb' 0 7 ++ BitVec.ofBool d)[0] := rfl
  rw [h, BitVec.getElem_append]
  simp

theorem shiftRow_succ (x : BitVec 8) (d : Bool) (k : Nat) (hk : k + 1 < 8) : (shiftRow x d)[k + 1] = x[k] := by
  have h : (shiftRow x d)[k + 1] = (x.extractLsb' 0 7 ++ BitVec.ofBool d)[k + 1] := rfl
  rw [h, BitVec.getElem_append]
  simp
  exact BitVec.getLsbD_eq_getElem (by omega)

/-- Eight row bits fill the row chain, whatever it held. -/
theorem shiftRows_rowBits (row sr : BitVec 8) : shiftRows row sr rowBits = row := by
  ext i hi
  simp only [shiftRows, rowBits, List.foldl]
  interval_cases i <;> simp [shiftRow_zero, shiftRow_succ]

/-! ## The latch-level trace -/

theorem latchTrace_append (p : SerialPort) (es : List (Line × Bool)) (rest : List Event) :
    latchTrace p (es.map pinEvent ++ rest) = latchTrace p (es.map pinEvent) ++ latchTrace (p.driveAll es) rest := by
  induction es generalizing p with
  | nil => rfl
  | cons e es ih =>
    obtain ⟨line, v⟩ := e
    cases line <;> cases v <;>
      simp only [List.map_cons, List.cons_append, pinEvent, latchTrace, SerialPort.driveAll, ih]
    split <;> rfl

/-- A column bit or a row bit latches nothing. -/
theorem latchTrace_noLatch (p : SerialPort) (es : List (Line × Bool)) (h : ∀ e ∈ es, e.1 ≠ .latch) :
    latchTrace p (es.map pinEvent) = [] := by
  induction es generalizing p with
  | nil => rfl
  | cons e es ih =>
    obtain ⟨line, v⟩ := e
    have hl : line ≠ .latch := h (line, v) (by simp)
    have ih := fun q => ih q fun e he => h e (List.mem_cons_of_mem _ he)
    cases line <;> cases v <;> first | exact absurd rfl hl | simp only [List.map_cons, pinEvent, latchTrace, ih]

/-! ## The row render's frame -/

/-- Driving pins changes the chains and the trace only. -/
theorem drivePins_eq (es : List (Line × Bool)) (s : State) :
    drivePins es s = { s with sr := s.sr.driveAll es, out := s.out ++ es.map pinEvent } := rfl

/-- A row render changes the chains and the trace only (R131). -/
theorem renderRow_frame (r : RowIndex) (s : State) :
    ∃ p es, renderRow r s = { s with sr := p, out := s.out ++ es } := by
  cases h : s.backend with
  | sr => exact ⟨_, _, by simp only [renderRow, h, renderRowSR, drivePins_eq]; rfl⟩
  | fb => exact ⟨s.sr, _, by simp only [renderRow, h, renderRowFB, emit]; rfl⟩

/-- The blank changes the chains and the trace only (R136). -/
theorem blankSR_frame (s : State) : ∃ p es, blankSR s = { s with sr := p, out := s.out ++ es } := ⟨_, _, rfl⟩

end Sys2Proof.Machine
end

