-- ==== Sys2Proof/Laws/Ops.lean ====
section
/-! SUPPORT. One lemma for each shared operation of the machine that says once everything it can do: the critical section, the
tick requests, the pins, the tick, the commands' precondition. -/

namespace Sys2Proof.Machine

/-! ## Preconditions and outcomes -/

/-- A command after BEGIN runs its body; before BEGIN it is refused (R160). -/
theorem afterBegin_of_init {body : State → Host.Outcome State Fault Refusal} {s : State} (h : s.init = true) :
    afterBegin body s = body s := by
  simp [afterBegin, h]

theorem afterBegin_of_not_init {body : State → Host.Outcome State Fault Refusal} {s : State} (h : s.init = false) :
    afterBegin body s = .refused .beforeBegin := by
  simp [afterBegin, h]

/-- The inversion of the precondition: a next state comes from the body, after BEGIN. -/
theorem afterBegin_next {body : State → Host.Outcome State Fault Refusal} {s t : State}
    (h : afterBegin body s = .next t) : s.init = true ∧ body s = .next t := by
  cases hi : s.init with
  | true => exact ⟨rfl, by rwa [afterBegin_of_init hi] at h⟩
  | false =>
    rw [afterBegin_of_not_init hi] at h
    cases h

theorem mapNext_next {f : State → State} {o : Host.Outcome State Fault Refusal} {t : State} (h : mapNext f o = .next t) :
    ∃ u, o = .next u ∧ t = f u := by
  cases o with
  | next u =>
    simp only [mapNext, Host.Outcome.next.injEq] at h
    exact ⟨u, rfl, h.symm⟩
  | fault r => cases r
  | refused r => cases h

@[simp] theorem mapNext_of_next (f : State → State) (s : State) : mapNext f (.next s) = .next (f s) := rfl

/-! ## The mask and the held request -/

/-- Holding a request changes TPEND only, and only while the timer runs (R172, R173). -/
theorem holdRequest_cases (s : State) :
    (timerRunning s = true ∧ holdRequest s = { s with tpend := true }) ∨ (timerRunning s = false ∧ holdRequest s = s) := by
  cases h : timerRunning s <;> simp [holdRequest, h]

@[simp] theorem holdRequestIf_false (s : State) : holdRequestIf false s = s := rfl

@[simp] theorem holdRequestIf_true (s : State) : holdRequestIf true s = holdRequest s := rfl

/-- What a request that arrived in a step can change: TPEND. -/
theorem holdRequestIf_eq (b : Bool) (s : State) :
    ∃ p, holdRequestIf b s = { s with tpend := p } ∧ (p = s.tpend ∨ p = true ∧ timerRunning s = true) := by
  cases b with
  | false => exact ⟨s.tpend, rfl, .inl rfl⟩
  | true =>
    rcases holdRequest_cases s with ⟨h, e⟩ | ⟨_, e⟩
    · exact ⟨true, e, .inr ⟨rfl, h⟩⟩
    · exact ⟨s.tpend, e, .inl rfl⟩

/-- A TICK is enabled exactly when INIT = 1, SCHED_EN = 1, IMASK = 0 (R115). -/
theorem tickEnabled_iff (s : State) : tickEnabled s = true ↔ s.init = true ∧ s.schedEn = true ∧ s.imask = false := by
  simp [tickEnabled, timerRunning, and_assoc]

/-- The mask is clear after a critical section (R46, R177). -/
@[simp] theorem atomic_imask (body : State → State) (s : State) : (atomic body s).imask = false := rfl

/-! ## The pins -/

/-- Drawing the pins uses up one draw and changes nothing else. -/
theorem popPins_eq (s : State) : ∃ ps n, popPins s = { s with pinDraws := ps, draws := n } := by
  cases h : s.pinDraws with
  | nil => exact ⟨s.pinDraws, s.draws + 1, by simp [popPins, h]⟩
  | cons p ps => exact ⟨ps, s.draws, by simp [popPins, h]⟩

/-! ## The debounce rule and the tick -/

/-- The four outcomes of one sample (R102). -/
theorem debounce_cases (level : Bool) (q : Button) :
    (level ≠ q.raw ∧ debounce level q = { q with raw := level, cnt := 0#3, edge := level || q.edge }) ∨
    (level = q.raw ∧ q.cnt + 1#3 = 4#3 ∧ debounce level q = { q with deb := q.raw, cnt := 0#3 }) ∨
    (level = q.raw ∧ q.cnt + 1#3 ≠ 4#3 ∧ debounce level q = { q with cnt := q.cnt + 1#3 }) := by
  by_cases h : level = q.raw
  · by_cases hc : q.cnt + 1#3 = 4#3
    · exact .inr (.inl ⟨h, hc, by simp [debounce, h, hc, Config.debounceN]⟩)
    · exact .inr (.inr ⟨h, hc, by simp [debounce, h, hc, Config.debounceN]⟩)
  · refine .inl ⟨h, ?_⟩
    have hb : (level != q.raw) = true := by simpa using h
    cases level <;> simp only [debounce, hb, if_true] <;> simp

/-- A counter of 0 to 3 stays so (R22, R9). -/
theorem debounce_cnt_lt {level : Bool} {q : Button} (h : q.cnt.toNat < 4) : (debounce level q).cnt.toNat < 4 := by
  rcases debounce_cases level q with ⟨_, e⟩ | ⟨_, _, e⟩ | ⟨_, hc, e⟩
  · simp [e]
  · simp [e]
  · rw [e]
    have : (q.cnt + 1#3).toNat ≠ 4 := fun he => hc (BitVec.eq_of_toNat_eq (by simpa using he))
    simp only [BitVec.toNat_add, BitVec.toNat_ofNat] at this ⊢
    omega

/-- (BTNCUR + 1) mod 5 as a number (R17). -/
theorem nextButton_val (b : Fin 5) : (nextButton b).val = (b.val + 1) % 5 := by
  fin_cases b <;> rfl

@[simp] theorem button_setButton_same (s : State) (b : Fin 5) (q : Button) : (s.setButton b q).button b = q := by
  simp [State.button]

theorem button_setButton_other (s : State) {b c : Fin 5} (q : Button) (h : c ≠ b) :
    (s.setButton b q).button c = s.button c := by
  simp [State.button, State.setButton, fun {α : Type} (p : PerButton α) x => PerButton.get_set_other p x h]

/-- Everything the tick's handler can write (R115, R38). -/
theorem tickBody_frame (pins : Pins) (s : State) :
    ∃ p es, tickBody pins s =
      { s.setButton s.btnCur (debounce (normalise s.params.btnActiveLow pins s.btnCur) (s.button s.btnCur)) with
        ticks := s.ticks + 1#32
        scan := s.scan + 1#3
        btnCur := nextButton s.btnCur
        sr := p
        out := s.out ++ es } := by
  obtain ⟨p, es, hr⟩ := renderRow_frame (countTick s).scan (countTick s)
  exact ⟨p, es, by rw [tickBody, hr]; rfl⟩

/-- Everything one TICK can write: TICKS, SCAN, BTNCUR, one button's state, the chains, the trace, TPEND and the draws
(R115, R38). -/
theorem tick_frame (req : Bool) (s : State) :
    ∃ p es tp ps n, tick req s =
      { s.setButton s.btnCur (debounce (normalise s.params.btnActiveLow (pinsNow s) s.btnCur) (s.button s.btnCur)) with
        ticks := s.ticks + 1#32
        scan := s.scan + 1#3
        btnCur := nextButton s.btnCur
        sr := p
        out := s.out ++ es
        tpend := tp
        pinDraws := ps
        draws := n } ∧
      tp = (req && timerRunning s) := by
  obtain ⟨ps, n, hpop⟩ := popPins_eq { s with tpend := false }
  obtain ⟨p, es, hb⟩ := tickBody_frame (pinsNow s) (popPins { s with tpend := false })
  rw [hpop] at hb
  cases req with
  | false => exact ⟨p, es, false, ps, n, by rw [tick, holdRequestIf_false, hpop, hb]; rfl, rfl⟩
  | true =>
    rcases holdRequest_cases (tickBody (pinsNow s) (popPins { s with tpend := false })) with ⟨ht, e⟩ | ⟨ht, e⟩
    · rw [hpop, hb] at ht e
      exact ⟨p, es, true, ps, n, by rw [tick, holdRequestIf_true, hpop, hb, e]; rfl, ht.symm⟩
    · rw [hpop, hb] at ht e
      exact ⟨p, es, false, ps, n, by rw [tick, holdRequestIf_true, hpop, hb, e]; rfl, ht.symm⟩

/-- A request that arrives while a TICK runs changes TPEND only (R173). -/
theorem tick_eq (req : Bool) (s : State) : tick req s = { tick false s with tpend := req && timerRunning s } := by
  obtain ⟨p, es, tp, ps, n, e, htp⟩ := tick_frame false s
  have hr : timerRunning (tick false s) = timerRunning s := by rw [e]; rfl
  have h0 : tick req s = holdRequestIf req (tick false s) := rfl
  rw [Bool.false_and] at htp
  subst htp
  cases req with
  | false => rw [e]; rfl
  | true =>
    rw [h0, holdRequestIf_true, Bool.true_and]
    rcases holdRequest_cases (tick false s) with ⟨ht, e'⟩ | ⟨ht, e'⟩
    · rw [e', ← hr, ht]
    · rw [e', ← hr, ht, e]

/-! ## The step -/

/-- The wait's condition as a number (R87). -/
theorem swapWaitOver_iff (s : State) : swapWaitOver s = true ↔ 2 ≤ s.ticks.toNat := by
  simp [swapWaitOver, Config.swapWaitTicks, BitVec.ule]

/-- A waiting SWAP whose tick condition holds, as numbers (R87). -/
theorem swapDue_iff (s : State) : swapDue s = true ↔ s.hphase = .swapWait ∧ 2 ≤ s.ticks.toNat := by
  cases h : s.hphase <;> simp [swapDue, h, swapWaitOver_iff]

/-- No SWAP of an idle block is due. -/
theorem swapDue_of_idle {s : State} (h : s.hphase = .idle) : swapDue s = false := by simp [swapDue, h]

/-- Everything a step can do, once: complete a SWAP, serve a held request, the host's move, a tick request, the default move,
or nothing. -/
theorem step_cases (s : State) :
    (swapDue s = true ∧ step s = .next (completeSwap s)) ∨
    (swapDue s = false ∧ pendingServed s = true ∧ step s = .next (tickHeld s)) ∨
    (swapDue s = false ∧ pendingServed s = false ∧ ∃ req ts, s.turns = .host req :: ts ∧
      step s = hostMove req { s with turns := ts }) ∨
    (swapDue s = false ∧ pendingServed s = false ∧ ∃ req ts, s.turns = .tick req :: ts ∧
      step s = .next (tickRequest req { s with turns := ts })) ∨
    (swapDue s = false ∧ pendingServed s = false ∧ s.turns = [] ∧ step s = defaultMove s) := by
  cases hd : swapDue s with
  | true => exact .inl ⟨rfl, by simp [step, takeTurn, hd]⟩
  | false =>
    cases hp : pendingServed s with
    | true => exact .inr (.inl ⟨rfl, rfl, by simp [step, takeTurn, hd, hp]⟩)
    | false =>
      cases ht : s.turns with
      | cons turn ts =>
        cases turn with
        | host req => exact .inr (.inr (.inl ⟨rfl, rfl, req, ts, rfl, by simp [step, takeTurn, hd, hp, ht]⟩))
        | tick req => exact .inr (.inr (.inr (.inl ⟨rfl, rfl, req, ts, rfl, by simp [step, takeTurn, hd, hp, ht]⟩)))
      | nil => exact .inr (.inr (.inr (.inr ⟨rfl, rfl, rfl, by simp [step, takeTurn, hd, hp, ht]⟩)))

/-- Everything the default move can do: the host's move, a TICK from a source that keeps ticking, or nothing (R176, R203). -/
theorem defaultMove_cases (s : State) :
    (hostReady s = true ∧ defaultMove s = hostMove false s) ∨
    (hostReady s = false ∧ tickEnabled s = true ∧ s.tickSource = .keepsTicking ∧ defaultMove s = .next (tick false s)) ∨
    (hostReady s = false ∧ (tickEnabled s = false ∨ s.tickSource = .stopped) ∧ defaultMove s = .next s) := by
  cases hr : hostReady s <;> cases he : tickEnabled s <;> cases hs : s.tickSource <;>
    simp [defaultMove, sourceTicks, hr, he, hs]

/-- Everything the host's move can do: waiting in SWAP, a command, waiting for words, or a refusal of a reserved word. -/
theorem hostMove_cases (req : Bool) (s : State) :
    (s.hphase = .swapWait ∧ hostMove req s = .next s) ∨
    (s.hphase = .idle ∧ ∃ i rest, decode s.cmd = .instr i rest ∧
      hostMove req s = mapNext (holdRequestIf (req && hasCriticalSection i)) (exec i { s with cmd := rest })) ∨
    (s.hphase = .idle ∧ decode s.cmd = .incomplete ∧ hostMove req s = .next s) ∨
    (s.hphase = .idle ∧ ∃ e, decode s.cmd = .rejected e ∧ hostMove req s = .refused (.reservedWord e)) := by
  cases hh : s.hphase with
  | swapWait => exact .inl ⟨rfl, by simp [hostMove, hh]⟩
  | idle =>
    cases hd : decode s.cmd with
    | instr i rest =>
      exact .inr (.inl ⟨rfl, i, rest, rfl, by simp [hostMove, hh, acceptCommand, hd, runCommand]⟩)
    | incomplete => exact .inr (.inr (.inl ⟨rfl, rfl, by simp [hostMove, hh, acceptCommand, hd]⟩))
    | rejected e => exact .inr (.inr (.inr ⟨rfl, e, rfl, by simp [hostMove, hh, acceptCommand, hd]⟩))

/-- The step is the machine's step (Host/Core.lean). -/
@[simp] theorem core_step : Host.Core.step core = step := rfl

/-- A run of one step more, where the first answers a next state. -/
theorem run_of_step {s t : State} (k : Nat) (h : step s = .next t) :
    Host.Core.run core (k + 1) s = Host.Core.run core k t := by
  simp only [Host.Core.run, core_step, h]

/-- No step faults (R170). -/
theorem step_not_fault (s : State) (r : Fault) : step s ≠ .fault r := nomatch r

end Sys2Proof.Machine
end

