-- ==== Sys2Proof/Laws/Exec.lean ====
section
/-! SUPPORT. The inversion of `exec`, one lemma a command: when it answers a next state, and which (45_init.md R160,
30_encoding.md R71, 42_refresh_scheduler.md R118); and that a refresh changes SCAN, the chains and the trace only. -/

namespace Sys2Proof.Machine

/-- A command whose body always completes answers a next state exactly after BEGIN (R160). -/
theorem afterBegin_total_iff {f : State → State} {s t : State} :
    afterBegin (fun s => .next (f s)) s = .next t ↔ s.init = true ∧ t = f s := by
  cases h : s.init <;> simp [afterBegin, h, eq_comm]

theorem exec_begin_iff {k : Backend} {en : Bool} {table : Option ColourTable} {s t : State} :
    exec (.begin k en table) s = .next t ↔
      s.init = false ∧ t = { s with backend := k, schedEn := en, lut := lutAfterBegin table s.lut, init := true } := by
  cases h : s.init <;> simp [exec, execBegin, h, eq_comm]

theorem exec_getbuf_iff {s t : State} :
    exec .getbuf s = .next t ↔ s.init = true ∧ t = respond ((backAddr s 0#3).setWidth 32) s := afterBegin_total_iff

theorem exec_setpix_iff {x y : Byte} {c : ColourIndex} {s t : State} :
    exec (.setpix x y c) s = .next t ↔ s.init = true ∧ t = setPixel x y c s := afterBegin_total_iff

theorem exec_clear_iff {s t : State} : exec .clear s = .next t ↔ s.init = true ∧ t = clearRows rows s :=
  afterBegin_total_iff

theorem exec_swap_iff {s t : State} :
    exec .swap s = .next t ↔ s.init = true ∧ t = enterSwapWait (atomic swapBody s) :=
  afterBegin_total_iff (f := fun s => enterSwapWait (atomic swapBody s))

theorem exec_getlvl_iff {b : BitVec 3} {s t : State} :
    exec (.getlvl b) s = .next t ↔
      s.init = true ∧ ∃ k, buttonOf b = some k ∧ t = respond ((BitVec.ofBool (s.appLevel.get k)).setWidth 32) s := by
  cases h : s.init <;> cases hb : buttonOf b <;> simp [exec, execGetlvl, afterBegin, h, respondButton, hb, eq_comm]

theorem exec_getedge_iff {b : BitVec 3} {s t : State} :
    exec (.getedge b) s = .next t ↔
      s.init = true ∧ ∃ k, buttonOf b = some k ∧ t = respond ((BitVec.ofBool (s.appEdge.get k)).setWidth 32) s := by
  cases h : s.init <;> cases hb : buttonOf b <;> simp [exec, execGetedge, afterBegin, h, respondButton, hb, eq_comm]

theorem exec_getticks_iff {s t : State} :
    exec .getticks s = .next t ↔ s.init = true ∧ t = respond s.lastTicks s := afterBegin_total_iff

theorem exec_refresh_iff {s t : State} :
    exec .refresh s = .next t ↔ s.init = true ∧ s.schedEn = false ∧ t = refreshAllRows s := by
  cases h : s.init <;> cases hs : s.schedEn <;> simp [exec, execRefresh, afterBegin, h, hs, eq_comm]

theorem exec_settext_iff {text : List Byte} {s t : State} :
    exec (.settext text) s = .next t ↔ s.init = true ∧ t = atomic (setText text) s := afterBegin_total_iff

theorem exec_apptext_iff {text : List Byte} {s t : State} :
    exec (.apptext text) s = .next t ↔ s.init = true ∧ t = atomic (appendText text) s := afterBegin_total_iff

theorem exec_ldrow_iff {a : GridAddr} {s t : State} :
    exec (.ldrow a) s = .next t ↔ s.init = true ∧ t = respond ((memRead s a).setWidth 32) s :=
  afterBegin_total_iff

theorem exec_strow_iff {a : GridAddr} {d : RowWord} {s t : State} :
    exec (.strow a d) s = .next t ↔ s.init = true ∧ t = memWrite s a d :=
  afterBegin_total_iff (f := fun s => memWrite s a d)

/-! ## What the state changes of the commands leave alone -/

/-- SETPIX changes the grid RAM only (R81). -/
theorem setPixel_frame (x y : Byte) (c : ColourIndex) (s : State) : ∃ m, setPixel x y c s = { s with grid := m } := by
  unfold setPixel
  split
  · exact ⟨_, rfl⟩
  · exact ⟨s.grid, rfl⟩

/-- CLEAR changes the grid RAM only (R82). -/
theorem clearRows_frame (rs : List RowIndex) (s : State) : ∃ m, clearRows rs s = { s with grid := m } := by
  induction rs generalizing s with
  | nil => exact ⟨s.grid, rfl⟩
  | cons r rs ih =>
    obtain ⟨m, hm⟩ := ih (memWrite s (backAddr s r) 0#16)
    exact ⟨m, hm⟩

/-- The words after a run of CLEAR's writes (R82). -/
theorem memRead_clearRows (rs : List RowIndex) (s : State) (g : BitVec 1) (r : RowIndex) :
    memRead (clearRows rs s) (rowAddr g r) = if g = s.back ∧ r ∈ rs then 0#16 else memRead s (rowAddr g r) := by
  induction rs generalizing s with
  | nil => simp [clearRows]
  | cons q rs ih =>
    rw [clearRows, ih, back_memWrite, memRead_memWrite, backAddr]
    simp only [rowAddr_inj]
    by_cases h1 : g = s.back <;> by_cases h2 : r = q <;> by_cases h3 : r ∈ rs <;> simp [h1, h2, h3]

/-- CLEAR's writes keep the canonical form. -/
theorem clearRows_wf (rs : List RowIndex) {s : State} (h : s.grid.wf = true) : (clearRows rs s).grid.wf = true := by
  induction rs generalizing s with
  | nil => exact h
  | cons r rs ih => exact ih (memWrite_wf _ _ h)

/-- Rendering rows changes SCAN, the chains and the trace only (R118). -/
theorem renderNextN_frame (n : Nat) (s : State) :
    ∃ p es, renderNextN n s = { s with scan := s.scan + BitVec.ofNat 3 n, sr := p, out := s.out ++ es } := by
  induction n generalizing s with
  | zero => exact ⟨s.sr, [], by simp [renderNextN]⟩
  | succ n ih =>
    obtain ⟨p, es, hr⟩ := renderRow_frame s.scan s
    obtain ⟨q, fs, hn⟩ := ih (renderNext s)
    refine ⟨q, es ++ fs, ?_⟩
    have hs : s.scan + 1#3 + BitVec.ofNat 3 n = s.scan + BitVec.ofNat 3 (n + 1) := by
      rw [BitVec.add_assoc, BitVec.ofNat_add, BitVec.add_comm (1#3)]
    rw [renderNextN, hn, renderNext, hr]
    simp only [advanceScan, hs, List.append_assoc]

/-- The hold and the blank change the chains and the trace only (R118, R136). -/
theorem holdAndBlank_frame (s : State) : ∃ p es, holdAndBlank s = { s with sr := p, out := s.out ++ es } := by
  unfold holdAndBlank
  split
  · exact ⟨_, [.hold] ++ (pinSequence 0xFFFF#16 0x00#8).map pinEvent, by rw [← List.append_assoc]; rfl⟩
  · exact ⟨s.sr, [], by simp⟩

/-- REFRESH leaves SCAN = 0 and changes the chains and the trace only beside it (R118). -/
theorem refreshAllRows_frame (s : State) :
    ∃ p es, refreshAllRows s = { s with scan := 0#3, sr := p, out := s.out ++ es } := by
  obtain ⟨p, es, h⟩ := renderNextN_frame 8 { s with scan := 0#3 }
  obtain ⟨q, fs, hq⟩ := holdAndBlank_frame (renderNextN 8 { s with scan := 0#3 })
  refine ⟨q, es ++ fs, ?_⟩
  rw [refreshAllRows, hq, h, ← List.append_assoc]
  rfl

end Sys2Proof.Machine
end

