-- ==== Sys2Proof/Laws/PerInstr.lean ====
section
/-! SUPPORT. A family of facts about every command as syntax, one lemma a constructor: the header of a command's encoding calls
for exactly the payload words that follow it (R67). -/

namespace Sys2Proof.Laws.PayloadMatchesHeader

/-- A well-formed command's encoding is a header and the payload words the header calls for. -/
def Statement (i : Instr) : Prop :=
  i.wellFormed = true → ∃ h ws, encode i = h :: ws ∧ payloadWordsOf h = ws.length

/-- A one-word command. -/
theorem of_single {i : Instr} {h : Word} (he : encode i = [h]) (hd : decodeHeader h = .ok (.single i)) : Statement i :=
  fun _ => ⟨h, [], he, by simp [payloadWordsOf, hd, Header.payloadWords]⟩

theorem begin (k : Backend) (startSched : Bool) (table : Option ColourTable) : Statement (.begin k startSched table) := by
  cases table with
  | none => exact of_single rfl (decodeHeader_headerM_none k startSched)
  | some t =>
    intro _
    exact ⟨_, _, rfl, by simp [payloadWordsOf, decodeHeader_headerM_table, Header.payloadWords]⟩

theorem getbuf : Statement .getbuf := of_single rfl (by decide)

theorem setpix (x y : Byte) (c : ColourIndex) : Statement (.setpix x y c) := of_single rfl (decodeHeader_headerP c y x)

theorem clear : Statement .clear := of_single rfl (by decide)

theorem swap : Statement .swap := of_single rfl (by decide)

theorem getlvl (b : BitVec 3) : Statement (.getlvl b) := of_single rfl (decodeHeader_getlvl b)

theorem getedge (b : BitVec 3) : Statement (.getedge b) := of_single rfl (decodeHeader_getedge b)

theorem getticks : Statement .getticks := of_single rfl (by decide)

theorem refresh : Statement .refresh := of_single rfl (by decide)

theorem settext (text : List Byte) : Statement (.settext text) := by
  intro h
  exact ⟨_, _, rfl, by
    simp [payloadWordsOf, decodeHeader_settext, Header.payloadWords, lengthField_toNat h, wordsOfText_length,
      -BitVec.toNat_ofNat]⟩

theorem apptext (text : List Byte) : Statement (.apptext text) := by
  intro h
  exact ⟨_, _, rfl, by
    simp [payloadWordsOf, decodeHeader_apptext, Header.payloadWords, lengthField_toNat h, wordsOfText_length,
      -BitVec.toNat_ofNat]⟩

theorem ldrow (a : GridAddr) : Statement (.ldrow a) := of_single rfl (decodeHeader_headerA a)

theorem strow (a : GridAddr) (d : RowWord) : Statement (.strow a d) := of_single rfl (decodeHeader_headerW a d)

end Sys2Proof.Laws.PayloadMatchesHeader
end

