-- ==== Sys2Proof/Laws/Step.lean ====
section
/-! SUPPORT. The induction principle of the step (20_memory.md R48): a relation that holds for an idle move, SWAP's completion,
a TICK and a command holds from every state to its next; and the inversions of the host's move and of a tick request
that it rests on. -/

namespace Sys2Proof.Machine

/-- The host's move inverted: nothing (waiting in SWAP or for words), or a command of an idle block. -/
theorem hostMove_next {req : Bool} {s t : State} (h : hostMove req s = .next t) :
    t = s ∨
    (s.hphase = .idle ∧ ∃ i rest u, decode s.cmd = .instr i rest ∧ exec i { s with cmd := rest } = .next u ∧
      t = holdRequestIf (req && hasCriticalSection i) u) := by
  rcases hostMove_cases req s with ⟨_, e⟩ | ⟨a, i, rest, d, e⟩ | ⟨_, _, e⟩ | ⟨_, r, _, e⟩
  · rw [e] at h
    cases h
    exact .inl rfl
  · rw [e] at h
    obtain ⟨u, hu, rfl⟩ := mapNext_next h
    exact .inr ⟨a, i, rest, u, d, hu, rfl⟩
  · rw [e] at h
    cases h
    exact .inl rfl
  · rw [e] at h
    cases h

/-- A tick request runs the TICK or changes TPEND only (R173, R175). -/
theorem tickRequest_cases (req : Bool) (s : State) :
    (tickEnabled s = true ∧ tickRequest req s = tick req s) ∨
    (tickEnabled s = false ∧ ∃ b, tickRequest req s = { s with tpend := b } ∧
      (b = s.tpend ∨ timerRunning s = true ∧ b = true)) := by
  cases h : tickEnabled s with
  | true => exact .inl ⟨rfl, by simp [tickRequest, h]⟩
  | false =>
    rcases holdRequest_cases s with ⟨a, e⟩ | ⟨_, e⟩
    · exact .inr ⟨rfl, true, by simp [tickRequest, h, e], .inr ⟨a, rfl⟩⟩
    · exact .inr ⟨rfl, s.tpend, by simp [tickRequest, h, e], .inl rfl⟩

/-- What relates every state to its next: enough to show it for a move that changes nothing but the schedule and TPEND, for
SWAP's completion, for a TICK and for a command. A TICK or a command is no step of a state whose SWAP is due. -/
theorem step_relates (P : State → State → Prop)
    (idle : ∀ s ts b, b = s.tpend ∨ timerRunning s = true → P s { s with turns := ts, tpend := b })
    (complete : ∀ s, swapDue s = true → P s (completeSwap s))
    (ticks : ∀ s ts ms req, swapDue s = false → tickEnabled s = true → P s (tick req { s with turns := ts, heldMarks := ms }))
    (command : ∀ s ts i rest u b, s.hphase = .idle → decode s.cmd = .instr i rest →
      exec i { s with turns := ts, cmd := rest } = .next u → P s (holdRequestIf b u))
    {s t : State} (h : step s = .next t) : P s t := by
  have host : ∀ req ts, hostMove req { s with turns := ts } = .next t → P s t := by
    intro req ts h
    rcases hostMove_next h with rfl | ⟨a, i, rest, u, d, e, rfl⟩
    · exact idle s ts s.tpend (.inl rfl)
    · exact command s ts i rest u _ a d e
  rcases step_cases s with ⟨a, e⟩ | ⟨a, b, e⟩ | ⟨_, _, req, ts, _, e⟩ | ⟨a, _, req, ts, _, e⟩ | ⟨a, _, _, e⟩ <;> rw [e] at h
  · cases h
    exact complete s a
  · cases h
    exact ticks s s.turns s.heldMarks.tail (heldMark s) a (by simpa using ((Bool.and_eq_true _ _).mp b).2)
  · exact host req ts h
  · cases h
    rcases tickRequest_cases req { s with turns := ts } with ⟨x, y⟩ | ⟨_, p, y, z⟩
    · rw [y]
      exact ticks s ts s.heldMarks req a x
    · rw [y]
      exact idle s ts p (z.imp_right And.left)
  · rcases defaultMove_cases s with ⟨_, d⟩ | ⟨_, x, _, d⟩ | ⟨_, _, d⟩ <;> rw [d] at h
    · exact host false s.turns h
    · cases h
      exact ticks s s.turns s.heldMarks false a x
    · cases h
      exact idle s s.turns s.tpend (.inl rfl)

/-- SWAP's critical section and the entry of its wait, as one record: everything SWAP writes (R83). -/
theorem swap_frame (s : State) :
    ∃ sh ev, enterSwapWait (atomic swapBody s) =
      { s with
        appEdge := s.edge
        edge := .all false
        appLevel := s.deb
        lastTicks := s.ticks
        ticks := 0#32
        front := s.back
        textShadow := sh
        out := s.out ++ ev
        imask := false
        hphase := if s.schedEn then .swapWait else s.hphase } ∧
      ((sh = s.textShadow ∧ ev = [] ∧ (s.backend = .fb → s.textCur = s.textShadow)) ∨
        (s.backend = .fb ∧ s.textCur ≠ s.textShadow ∧ sh = s.textCur ∧ ev = [.overlay s.textCur])) := by
  cases hb : s.backend <;> cases hs : s.schedEn <;> by_cases ht : s.textCur = s.textShadow <;>
    simp [enterSwapWait, atomic, swapBody, redrawOverlay, exchangeGrids, captureTicks, commitButtons, State.back, hb, hs, ht, emit]

/-- Everything SETTEXT's critical section writes (R150). -/
theorem setText_frame (text : List Byte) (s : State) :
    ∃ cur, atomic (setText text) s = { s with textCur := cur, imask := false } ∧
      (text.length ≤ s.params.textMax ∧ cur = text ∨ s.params.textMax < text.length ∧ cur = s.textCur) := by
  by_cases h : text.length ≤ s.params.textMax
  · exact ⟨text, by simp [atomic, setText, h], .inl ⟨h, rfl⟩⟩
  · exact ⟨s.textCur, by simp [atomic, setText, h], .inr ⟨by omega, rfl⟩⟩

/-- Everything APPTEXT's critical section writes (R151). -/
theorem appendText_frame (text : List Byte) (s : State) :
    ∃ cur, atomic (appendText text) s = { s with textCur := cur, imask := false } ∧
      (s.textCur.length + text.length ≤ s.params.textMax ∧ cur = s.textCur ++ text ∨
        s.params.textMax < s.textCur.length + text.length ∧ cur = s.textCur) := by
  by_cases h : s.textCur.length + text.length ≤ s.params.textMax
  · exact ⟨s.textCur ++ text, by simp [atomic, appendText, h], .inl ⟨h, rfl⟩⟩
  · exact ⟨s.textCur, by simp [atomic, appendText, h], .inr ⟨by omega, rfl⟩⟩

end Sys2Proof.Machine
end

