-- ==== Sys2Proof/Tests/Slice0.lean ====
section
/-! SUPPORT. The model's own tests. Every expected value is read from the spec: the words from 95_test_vectors.md Part 2 and
30_encoding.md R63, the results from the vectors of Part 2 and the worked examples of the rules named. At the end, for each
statement with hypotheses, a witness that meets them. -/

namespace Sys2Proof.Tests

open Sys2Proof Sys2Proof.Machine

/-! ## A bench: the reset state after BEGIN, with the vectors' parameters (TEXT_MAX = 16, BTN_ACTIVE_LOW = 0b11111) -/

def benchParams : Params :=
  { textMax := 16, btnActiveLow := 0b11111#5, cellW := 10, cellH := 10, originX := 0, originY := 0 }

def quietPort (row : BitVec 8) (col : BitVec 16) : SerialPort :=
  { rowSr := row
    colSr := col
    rowLatch := row
    colLatch := col
    colData := false
    colClk := false
    rowData := false
    rowClk := false
    latch := false }

/-- After BEGIN on the shift-register backend, in manual mode; the chains hold the arbitrary values of the vectors. -/
def manual : State := { State.reset with init := true, params := benchParams, sr := quietPort 0xAB#8 0x1234#16 }

/-- The same in interrupt mode, nothing pressed at the next tick. -/
def running : State := { manual with schedEn := true, pinDraws := [0b11111#5] }

/-- The framebuffer backend in manual mode. -/
def panel : State := { manual with backend := .fb }

/-- Before BEGIN. -/
def cold : State := { manual with init := false }

def five (b0 b1 b2 b3 b4 : Bool) : PerButton Bool := { b0 := b0, b1 := b1, b2 := b2, b3 := b3, b4 := b4 }

def text (n : Nat) : List Byte := List.replicate n 0x21#8

theorem settext_wellFormed (n : Nat) : (Instr.settext (text n)).wellFormed = decide (n ≤ 255) := by
  rw [Instr.wellFormed, textEncodable, text, List.length_replicate]

theorem apptext_wellFormed (n : Nat) : (Instr.apptext (text n)).wellFormed = decide (n ≤ 255) := by
  rw [Instr.wellFormed, textEncodable, text, List.length_replicate]

/-! ## WellFormed: the ill-formed terms are refused, the longest texts are not (R64) -/

theorem test_wf_settext_too_long : (Instr.settext (text 256)).wellFormed = false := (settext_wellFormed 256).trans (by decide)
theorem test_wf_apptext_too_long : (Instr.apptext (text 256)).wellFormed = false := (apptext_wellFormed 256).trans (by decide)
theorem test_wf_settext_longest : (Instr.settext (text 255)).wellFormed = true := (settext_wellFormed 255).trans (by decide)
theorem test_wf_apptext_longest : (Instr.apptext (text 255)).wellFormed = true := (apptext_wellFormed 255).trans (by decide)

/-! ## Decoding: words of 95_test_vectors.md Part 2 (Encoding), one or more for each constructor -/

theorem test_decode_begin : decode [0x10000002#32] = .instr (.begin .sr true none) [] := by decide
theorem test_decode_begin_fb : decode [0x10000003#32] = .instr (.begin .fb true none) [] := by decide
theorem test_decode_begin_table :
    decode [0x10000005#32, 0x00000000#32, 0x00FF8040#32, 0x0000FF00#32, 0x000000FF#32, 0x40000000#32] =
      .instr (.begin .fb false (some ⟨⟨0#8, 0#8, 0#8⟩, ⟨255#8, 128#8, 64#8⟩, ⟨0#8, 255#8, 0#8⟩, ⟨0#8, 0#8, 255#8⟩⟩))
        [0x40000000#32] := by decide
theorem test_decode_getbuf : decode [0x20000000#32] = .instr .getbuf [] := by decide
theorem test_decode_setpix : decode [0x30020503#32] = .instr (.setpix 3#8 5#8 2#2) [] := by decide
theorem test_decode_setpix_negative : decode [0x300203FF#32] = .instr (.setpix (BitVec.ofInt 8 (-1)) 3#8 2#2) [] := by decide
theorem test_decode_clear : decode [0x40000000#32] = .instr .clear [] := by decide
theorem test_decode_swap : decode [0x50000000#32] = .instr .swap [] := by decide
theorem test_decode_getlvl : decode [0x60000002#32] = .instr (.getlvl 2#3) [] := by decide
theorem test_decode_getedge : decode [0x70000002#32] = .instr (.getedge 2#3) [] := by decide
theorem test_decode_getticks : decode [0x80000000#32] = .instr .getticks [] := by decide
theorem test_decode_refresh : decode [0x90000000#32] = .instr .refresh [] := by decide
theorem test_decode_settext :
    decode [0xA0000005#32, 0x524F4353#32, 0x00000045#32] =
      .instr (.settext [0x53#8, 0x43#8, 0x4F#8, 0x52#8, 0x45#8]) [] := by decide
theorem test_decode_settext_empty : decode [0xA0000000#32] = .instr (.settext []) [] := by decide
theorem test_decode_apptext : decode [0xB0000003#32, 0x00323120#32] = .instr (.apptext [0x20#8, 0x31#8, 0x32#8]) [] := by
  decide
theorem test_decode_ldrow : decode [0xC0000009#32] = .instr (.ldrow 9#4) [] := by decide
theorem test_decode_strow : decode [0xD00900FF#32] = .instr (.strow 9#4 0x00FF#16) [] := by decide

/-- The reserved words of Part 2, each beside its nearest legal word. -/
theorem test_decode_reserved :
    decode [0x00000000#32] = .rejected .reservedOpcode ∧ decode [0xE0000000#32] = .rejected .reservedOpcode ∧
    decode [0xF0000000#32] = .rejected .reservedOpcode ∧ decode [0x40000001#32] = .rejected .headerMustBeZero ∧
    decode [0x10000008#32] = .rejected .headerMustBeZero ∧ decode [0x30040000#32] = .rejected .headerMustBeZero ∧
    decode [0xC0000010#32] = .rejected .headerMustBeZero := by decide

/-- Reserved payload words (R70), and a payload that has not all been presented (R67). -/
theorem test_decode_payload :
    decode [0x10000004#32, 0#32, 0#32, 0x01000000#32, 0#32] = .rejected .payloadMustBeZero ∧
    decode [0xA0000002#32, 0x00014948#32] = .rejected .payloadMustBeZero ∧
    decode [0x10000004#32, 0#32, 0#32, 0#32] = .incomplete ∧ decode [] = .incomplete := by decide

/-- The encoder against the same table. -/
theorem test_encode :
    encode (.setpix 0#8 (BitVec.ofInt 8 (-128)) 1#2) = [0x30018000#32] ∧ encode (.strow 9#4 0x00FF#16) = [0xD00900FF#32] ∧
    encode (.settext [0x48#8, 0x49#8]) = [0xA0000002#32, 0x00004948#32] ∧ encode (.begin .fb true none) = [0x10000003#32] ∧
    encode (.getlvl 2#3) = [0x60000002#32] ∧ encode (.ldrow 9#4) = [0xC0000009#32] := by decide

/-- The opcode table's numbering of bits: bit 0 is the least significant bit of the first word. -/
theorem test_table_word :
    decodeTableWord 32 0x30020503 = some (.setpix 3#8 5#8 2#2) ∧ decodeTableWord 32 0xA0000000 = some (.settext []) ∧
    decodeTableWord 32 0x10000004 = some (.begin .sr false (some ⟨⟨0#8, 0#8, 0#8⟩, ⟨0#8, 0#8, 0#8⟩, ⟨0#8, 0#8, 0#8⟩, ⟨0#8, 0#8, 0#8⟩⟩)) ∧
    decodeTableWord 64 0x00004948A0000002 = some (.settext [0x48#8, 0x49#8]) ∧ decodeTableWord 32 0xE0000000 = none := by decide

/-! ## One step of each command -/

/-- From reset the first command is BEGIN: the next step takes it from the port (R161, example words). -/
theorem test_begin_from_reset :
    (nextOf (step (State.reset.withFetchWord 32 0x10000003))).map (fun t => (t.init, t.backend, t.schedEn, t.cmd)) =
      some (true, .fb, true, []) := by decide

/-- R80's example: after reset and BEGIN, GETBUF responds 8; and begunFor is BEGIN 0, 0 from reset (R161). -/
theorem test_getbuf_from_reset :
    (nextOf (step (State.reset.withFetchWord 32 0x20000000))).map (·.resp) = some [0x00000008#32] := by decide
theorem test_begun_is_begin : exec (.begin .sr false none) State.reset = .next (begunFor [0x20000000#32] State.reset) := rfl

/-- R161's example: the packed table. -/
theorem test_begin_packs_table :
    (nextOf (exec (.begin .fb false (some ⟨⟨0#8, 0#8, 0#8⟩, ⟨255#8, 128#8, 64#8⟩, ⟨0#8, 255#8, 0#8⟩, ⟨0#8, 0#8, 255#8⟩⟩)) cold)).map
      (·.lut) = some { e0 := 0x0000#16, e1 := 0xFC08#16, e2 := 0x07E0#16, e3 := 0x001F#16 } := by decide

/-- R162's table of PACK values. -/
theorem test_pack :
    pack ⟨255#8, 255#8, 255#8⟩ = 0xFFFF#16 ∧ pack ⟨255#8, 0#8, 0#8⟩ = 0xF800#16 ∧ pack ⟨0#8, 255#8, 0#8⟩ = 0x07E0#16 ∧
    pack ⟨255#8, 255#8, 0#8⟩ = 0xFFE0#16 ∧ pack ⟨128#8, 128#8, 128#8⟩ = 0x8410#16 ∧ pack ⟨8#8, 4#8, 8#8⟩ = 0x0821#16 ∧
    pack ⟨7#8, 3#8, 7#8⟩ = 0x0000#16 := by decide

/-- R80's example and V2: the base of the back grid, 8 then 0. -/
theorem test_getbuf :
    (nextOf (exec .getbuf manual)).map (·.resp) = some [0x00000008#32] ∧
    (nextOf (exec .getbuf { manual with front := 1#1 })).map (·.resp) = some [0x00000000#32] := by decide

def word8 (w : RowWord) : State := memWrite manual 8#4 w

/-- The SETPIX vectors of Part 2 on word 8: replaced, erased. -/
theorem test_setpix :
    (nextOf (exec (.setpix 7#8 0#8 3#2) (word8 0x0001#16))).map (·.grid) = some [(8, 0xC001#16)] ∧
    (nextOf (exec (.setpix 3#8 0#8 1#2) (word8 0xC081#16))).map (·.grid) = some [(8, 0xC041#16)] ∧
    (nextOf (exec (.setpix 7#8 0#8 0#2) (word8 0xC000#16))).map (·.grid) = some [] := by decide

/-- V1: SETPIX out of range changes no word. -/
theorem test_setpix_ignored :
    (nextOf (exec (.setpix 8#8 0#8 1#2) (word8 0x0001#16))).map (·.grid) = some [(8, 0x0001#16)] ∧
    (nextOf (exec (.setpix 0xFF#8 3#8 2#2) (word8 0x0001#16))).map (·.grid) = some [(8, 0x0001#16)] ∧
    (nextOf (exec (.setpix 0#8 0x80#8 1#2) (word8 0x0001#16))).map (·.grid) = some [(8, 0x0001#16)] ∧
    (nextOf (exec (.setpix 127#8 0#8 1#2) (word8 0x0001#16))).map (·.grid) = some [(8, 0x0001#16)] := by decide

/-- CLEAR of Part 2: the back grid's words go, the front grid's stay; with FRONT = 1 the roles are exchanged. -/
theorem test_clear :
    (nextOf (exec .clear { manual with grid := [(0, 0x1234#16), (7, 0x1234#16), (8, 0xFFFF#16), (15, 0xFFFF#16)] })).map (·.grid) =
      some [(0, 0x1234#16), (7, 0x1234#16)] ∧
    (nextOf (exec .clear { manual with grid := [(7, 0x1234#16), (8, 0xFFFF#16)], front := 1#1 })).map (·.grid) =
      some [(8, 0xFFFF#16)] := by decide

/-- The state before SWAP phase 1 of Part 2. -/
def beforeSwap : State :=
  { manual with
    edge := five true false true false false
    deb := five false true true false false
    appEdge := five false true false false false
    appLevel := five true false false false false
    ticks := 37#32
    lastTicks := 5#32
    front := 1#1 }

/-- SWAP phase 1 of Part 2, all its effects; in manual mode it completes at once. -/
theorem test_swap_phase1 :
    nextOf (exec .swap beforeSwap) =
      some { beforeSwap with
        appEdge := five true false true false false
        edge := five false false false false false
        appLevel := five false true true false false
        lastTicks := 37#32
        ticks := 0#32
        front := 0#1 } := by decide

/-- The redraw vectors of Part 2: drawn on FB when the text differs, never on SR; SWAP waits in interrupt mode. -/
theorem test_swap_overlay :
    (nextOf (exec .swap { panel with textCur := [], textShadow := [0x48#8, 0x49#8] })).map (fun t => (t.out, t.textShadow)) =
      some ([.overlay []], []) ∧
    (nextOf (exec .swap { running with textCur := [0x48#8] })).map (fun t => (t.out, t.textShadow, t.hphase)) =
      some ([], [], .swapWait) := by decide

/-- R105's and R106's examples; R71: index 5 is refused. -/
theorem test_getlvl :
    (nextOf (exec (.getlvl 2#3) { manual with appLevel := five false false true false false })).map (·.resp) = some [1#32] ∧
    refusalOf (exec (.getlvl 5#3) manual) = some .buttonIndex := by decide
theorem test_getedge :
    (nextOf (exec (.getedge 2#3) { manual with appEdge := five false false true false false })).map
      (fun t => (t.resp, t.appEdge)) = some ([1#32], five false false true false false) ∧
    refusalOf (exec (.getedge 7#3) manual) = some .buttonIndex := by decide

/-- R120's example, 18 ticks: the capture is answered, not the live counter. -/
theorem test_getticks :
    (nextOf (exec .getticks { manual with lastTicks := 18#32, ticks := 2#32 })).map (·.resp) = some [0x00000012#32] := by decide

/-- The REFRESH vector of Part 2 (P5 step 8): the latch-level trace. -/
theorem test_refresh_sr :
    (nextOf (exec .refresh { manual with front := 1#1, grid := [(9, 0xAAAA#16)], scan := 5#3 })).map
      (fun t => (latchTrace manual.sr t.out, t.scan)) =
      some ([.latched 0x01#8 0xFFFF#16, .latched 0x02#8 0x5555#16, .latched 0x04#8 0xFFFF#16, .latched 0x08#8 0xFFFF#16,
        .latched 0x10#8 0xFFFF#16, .latched 0x20#8 0xFFFF#16, .latched 0x40#8 0xFFFF#16, .latched 0x80#8 0xFFFF#16,
        .hold, .latched 0x00#8 0xFFFF#16], 0#3) := by decide

/-- The FB half of REFRESH: 64 events; P2's rectangle of row 7, column 2 is the 59th. -/
theorem test_refresh_fb :
    (nextOf (exec .refresh { panel with
      grid := [(7, 0xC010#16)]
      lut := { e0 := 0x0000#16, e1 := 0xFC08#16, e2 := 0x07E0#16, e3 := 0x001F#16 } })).map
      (fun t => (t.out.length, t.out.drop 58 |>.head?)) = some (64, some (.fillRect 20 70 10 10 0xFC08#16)) := by decide

/-- The text vectors of Part 2. -/
theorem test_settext :
    (nextOf (exec (.settext (text 16)) manual)).map (·.textCur) = some (text 16) ∧
    (nextOf (exec (.settext (text 17)) { manual with textCur := [0x48#8, 0x49#8] })).map (·.textCur) =
      some [0x48#8, 0x49#8] := by decide
theorem test_apptext :
    (nextOf (exec (.apptext (text 14)) { manual with textCur := [0x48#8, 0x49#8] })).map (·.textCur) =
      some (0x48#8 :: 0x49#8 :: text 14) ∧
    (nextOf (exec (.apptext (text 15)) { manual with textCur := [0x48#8, 0x49#8] })).map (·.textCur) =
      some [0x48#8, 0x49#8] := by decide

/-- LDROW and STROW of Part 2, for either FRONT; R88's and R89's examples. -/
theorem test_ldrow :
    (nextOf (exec (.ldrow 15#4) { manual with grid := [(15, 0xFFFF#16)] })).map (·.resp) = some [0x0000FFFF#32] ∧
    (nextOf (exec (.ldrow 0#4) { manual with grid := [(0, 0xBEEF#16)] })).map (·.resp) = some [0x0000BEEF#32] := by decide
theorem test_strow :
    (nextOf (exec (.strow 0#4 0xBEEF#16) manual)).map (·.grid) = some [(0, 0xBEEF#16)] ∧
    (nextOf (exec (.strow 9#4 0x00FF#16) { manual with grid := [(8, 1#16), (9, 2#16), (10, 3#16)] })).map (·.grid) =
      some [(8, 1#16), (9, 0x00FF#16), (10, 3#16)] := by decide

/-- R160: before BEGIN every other command is refused, after it BEGIN is; R118: REFRESH in interrupt mode. -/
theorem test_refusals :
    refusalOf (exec .clear cold) = some .beforeBegin ∧ refusalOf (exec (.begin .sr true none) manual) = some .secondBegin ∧
    refusalOf (exec .refresh running) = some .refreshWhileScheduled := by decide

/-! ## Ticks, the wait and the renderer -/

/-- R115's example. -/
theorem test_tick :
    (fun t : State => (t.ticks, t.sr.rowLatch, t.sr.colLatch, t.scan, t.cnt.get 4, t.btnCur))
      (tick false { running with
        scan := 7#3
        btnCur := 4
        ticks := 9#32
        grid := [(7, 0xC000#16)]
        cnt := { b0 := 0#3, b1 := 0#3, b2 := 0#3, b3 := 0#3, b4 := 2#3 } }) =
      (10#32, 0x80#8, 0x3FFF#16, 0#3, 3#3, 0) := by decide

/-- The TICK wrap of Part 2, and P1 step 5's press of button 0 by an active-low pin (V3). -/
theorem test_tick_wraps_and_presses :
    (fun t : State => (t.ticks, t.raw.get 0, t.edge.get 0)) (tick false { running with ticks := 0xFFFFFFFF#32, pinDraws := [0b11110#5] }) =
      (0#32, true, true) := by decide

/-- SWAP's wait of Part 2: still waiting at TICKS = 1; at 2 it ends (R115), even where a tick is held and another scheduled. -/
theorem test_swap_wait :
    (nextOf (step { running with hphase := .swapWait, ticks := 1#32, turns := [.host false] })).map (·.hphase) = some .swapWait ∧
    (nextOf (step { running with hphase := .swapWait, ticks := 2#32, tpend := true, turns := [.tick false] })).map
      (fun t => (t.hphase, t.ticks, t.tpend)) = some (.idle, 2#32, true) := by
  decide

/-- R173: a request that arrives while a held TICK runs is held in its turn; without one TPEND is clear after it. -/
theorem test_held_tick :
    (nextOf (step { running with tpend := true, heldMarks := [true] })).map (fun t => (t.ticks, t.tpend, t.heldMarks)) =
      some (1#32, true, []) ∧
    (nextOf (step { running with tpend := true })).map (fun t => (t.ticks, t.tpend)) = some (1#32, false) := by decide

/-- R203, U9: with the tick source stopped and nothing scheduled a waiting SWAP stays; R176: with it ticking a TICK comes. -/
theorem test_swap_hangs :
    (nextOf (step { running with hphase := .swapWait, tickSource := .stopped })).map (fun t => (t.hphase, t.ticks)) =
      some (.swapWait, 0#32) ∧
    (nextOf (step { running with hphase := .swapWait })).map (fun t => (t.hphase, t.ticks)) = some (.swapWait, 1#32) := by decide

/-- V4 and V7 and the release vector, sample by sample: the last rows of each table. -/
theorem test_debounce :
    debounce true { raw := false, cnt := 0#3, deb := false, edge := false } = { raw := true, cnt := 0#3, deb := false, edge := true } ∧
    debounce false { raw := true, cnt := 3#3, deb := false, edge := true } = { raw := false, cnt := 0#3, deb := false, edge := true } ∧
    debounce true { raw := true, cnt := 3#3, deb := false, edge := true } = { raw := true, cnt := 0#3, deb := true, edge := true } ∧
    debounce false { raw := true, cnt := 2#3, deb := true, edge := false } = { raw := false, cnt := 0#3, deb := true, edge := false } ∧
    debounce false { raw := false, cnt := 3#3, deb := true, edge := false } = { raw := false, cnt := 0#3, deb := false, edge := false } := by
  decide

/-- The normalisation vector of Part 2 (R100). -/
theorem test_normalise :
    normalise 0b00001#5 0b00000#5 0 = true ∧ normalise 0b00001#5 0b00001#5 0 = false ∧
    normalise 0b00001#5 0b00010#5 1 = true ∧ normalise 0b00001#5 0b00000#5 1 = false := by decide

/-- RenderRowSR(7, 0xC010) of Part 2: the COL_DATA and ROW_DATA values in order, and the latches from arbitrary chains. -/
theorem test_render_sr :
    ((pinSequence 0x3FEF#16 0x80#8).filter (fun e => e.1 == .colData)).map (·.2) =
      [false, false, true, true, true, true, true, true, true, true, true, false, true, true, true, true] ∧
    ((pinSequence 0x3FEF#16 0x80#8).filter (fun e => e.1 == .rowData)).map (·.2) =
      [true, false, false, false, false, false, false, false] ∧
    (renderRowSR 7#3 0xC010#16 manual).sr.colLatch = 0x3FEF#16 ∧ (renderRowSR 7#3 0xC010#16 manual).sr.rowLatch = 0x80#8 := by
  decide

/-- RenderRowFB(3, 0x1BE4) of Part 2. -/
theorem test_render_fb :
    (renderRowFB 3#3 0x1BE4#16 panel).out =
      [.fillRect 0 30 10 10 0x0000#16, .fillRect 10 30 10 10 0xF800#16, .fillRect 20 30 10 10 0x07E0#16,
       .fillRect 30 30 10 10 0xFFE0#16, .fillRect 40 30 10 10 0xFFE0#16, .fillRect 50 30 10 10 0x07E0#16,
       .fillRect 60 30 10 10 0xF800#16, .fillRect 70 30 10 10 0x0000#16] := by decide

/-! ## Witnesses: for each statement with hypotheses, a state and operands that meet them, at the boundaries of its clauses -/

/-- The invariant on a state, clause by clause in a form `decide` evaluates. -/
theorem inv_of_checks {s : State} (hg : s.grid.wf = true) (hc : ∀ b, (s.cnt.get b).toNat < 4)
    (ht : s.textCur.length ≤ s.params.textMax ∧ s.textShadow.length ≤ s.params.textMax)
    (hq : s.sr.quiet = true ∧ s.imask = false) (hb : s.schedEn = true → s.init = true)
    (hw : s.hphase = .swapWait → s.schedEn = true) (h2 : s.hphase = .swapWait → s.ticks.toNat ≤ 2)
    (hp : s.tpend = true → timerRunning s = true) (hr : s.params.wf = true) : Inv s := ⟨hg, hc, ht.1, ht.2, hq.1, hq.2, hb, hw, h2, hp, hr⟩

/-- A host waiting in SWAP with one tick counted and a schedule to come. -/
def waiting : State := { running with hphase := .swapWait, ticks := 1#32, turns := [.host false, .tick true] }

theorem waiting_inv : Inv waiting := inv_of_checks (by decide) (by decide) (by decide) (by decide) (by decide) (by decide)
  (by decide) (by decide) (by decide)

theorem witness_DecodeReadsEncodedCommand :
    (Instr.begin .fb true (some ⟨⟨1#8, 2#8, 3#8⟩, ⟨4#8, 5#8, 6#8⟩, ⟨7#8, 8#8, 9#8⟩, ⟨10#8, 11#8, 12#8⟩⟩)).wellFormed = true ∧
    (Instr.settext []).wellFormed = true ∧ (Instr.apptext (text 255)).wellFormed = true :=
  ⟨rfl, rfl, (apptext_wellFormed 255).trans (by decide)⟩

theorem witness_DecodedWordsAreTheEncoding :
    decode [0xB0000005#32, 0x21212121#32, 0x00000021#32, 0x20000000#32] = .instr (.apptext (text 5)) [0x20000000#32] := by decide

theorem witness_PayloadCountFollowsHeader :
    decode [0x10000004#32, 0#32, 0#32, 0#32, 0#32, 7#32] =
      .instr (.begin .sr false (some ⟨⟨0#8, 0#8, 0#8⟩, ⟨0#8, 0#8, 0#8⟩, ⟨0#8, 0#8, 0#8⟩, ⟨0#8, 0#8, 0#8⟩⟩)) [7#32] ∧
    decode [0x10000000#32, 7#32] = .instr (.begin .sr false none) [7#32] ∧
    decode [0xA0000000#32, 7#32] = .instr (.settext []) [7#32] ∧
    decode [0xB0000004#32, 0x21212121#32, 7#32] = .instr (.apptext (text 4)) [7#32] ∧
    decode [0x40000000#32, 7#32] = .instr .clear [7#32] := by decide

theorem witness_ReservedWordsAreRefused :
    (pendingServed manual = false ∧ manual.hphase = .idle) ∧
    (∀ row ∈ opcodeTable, 0x0FFFFFFF#32 &&& row.2.2 ≠ row.2.1) ∧ (∀ row ∈ opcodeTable, 0x40000001#32 &&& row.2.2 ≠ row.2.1) ∧
    (0x10000007#32 &&& 0xFFFFFFFC#32 = 0x10000004#32 ∧ 2 ^ 24 ≤ (0x01000000#32).toNat) ∧
    (0xA0000005#32 &&& 0xFFFFFF00#32 = 0xA0000000#32 ∧ (0xA0000005#32).toNat % 256 = 4 * [0x21212121#32].length + (0xA0000005#32).toNat % 4 ∧
      (0xA0000005#32).toNat % 4 ≠ 0 ∧ 2 ^ (8 * ((0xA0000005#32).toNat % 4)) ≤ (0x00000100#32).toNat) := by decide

theorem witness_StepRunsDecodedCommand :
    (pendingServed running = false ∧ running.hphase = .idle ∧ running.turns = [] ∧
      decode [0x50000000#32, 9#32] = .instr .swap [9#32]) ∧
    { running with turns := [.host true] }.turns = [.host true] := by decide

theorem witness_PresentedCommandRunsNext : (Instr.setpix 7#8 7#8 3#2).wellFormed = true := by decide

theorem witness_SwapCompletesAtTwoTicks :
    (waiting.hphase = .swapWait ∧ waiting.ticks.toNat < 2 ∧ pendingServed waiting = false ∧
      waiting.turns = [.host false, .tick true]) ∧
    2 ≤ { waiting with ticks := 2#32 }.ticks.toNat := by decide

theorem witness_SwapWaitEnds : Inv waiting ∧ waiting.hphase = .swapWait ∧ waiting.tickSource = .keepsTicking :=
  ⟨waiting_inv, rfl, rfl⟩

theorem witness_SwapHangsWithoutTicks :
    waiting.hphase = .swapWait ∧ waiting.ticks.toNat < 2 ∧ waiting.tpend = false ∧
    { waiting with tickSource := .stopped }.tickSource = .stopped ∧
    ∀ turn ∈ { waiting with turns := [.host false, .host true] }.turns, turn = .host false ∨ turn = .host true := by decide

theorem witness_TickRequestOutcome :
    (swapDue waiting = false ∧ swapDue running = false ∧ pendingServed { running with turns := [.tick false] } = false) ∧
    (running.init = true ∧ running.schedEn = true ∧ running.imask = false) ∧
    (pendingServed { running with imask := true } = false ∧ { running with imask := true }.imask = true) ∧
    (manual.init = true ∧ manual.schedEn = false) ∧ cold.init = false := by decide

theorem witness_HeldRequestIsServedNext :
    swapDue { waiting with tpend := true } = false ∧ { waiting with tpend := true }.tpend = true ∧ waiting.init = true ∧
    waiting.schedEn = true ∧ waiting.imask = false := by decide

theorem witness_MaskedRequestIsServedNext :
    (pendingServed running = false ∧ running.hphase = .idle ∧ running.init = true ∧ running.schedEn = true) ∧
    decode [0x50000000#32] = .instr .swap [] ∧ decode [0xA0000000#32] = .instr (.settext []) [] ∧
    decode [0xB0000000#32] = .instr (.apptext []) [] := by decide

theorem witness_BeginSetsModeAndPalette : cold.init = false ∧ manual.init = true := by decide

/-- For GetbufRespondsBackBase, ClearZeroesBackGrid, SwapCriticalSectionEffects, GetticksRespondsCapture, LdrowRespondsWord,
StrowWritesOneWord, TwoSwapsRestoreRoles and DrawnPixelIsInFrontAfterSwap: their one hypothesis, on both backends and in both
modes. -/
theorem witness_after_begin :
    manual.init = true ∧ panel.init = true ∧ running.init = true ∧ { panel with schedEn := true }.init = true := by decide

theorem witness_SetpixWritesOneCell :
    manual.init = true ∧ onGrid 0#8 7#8 = true ∧ onGrid 7#8 0#8 = true ∧ onGrid 8#8 0#8 = false ∧ onGrid 0#8 0xFF#8 = false ∧
    onGrid 0x80#8 0#8 = false := by decide

theorem witness_GetlvlRespondsLevel : manual.init = true ∧ 4 < (5#3).toNat ∧ ¬ 4 < (BitVec.ofNat 3 (4 : Fin 5).val).toNat := by decide

theorem witness_GetedgeRespondsFlag : manual.init = true ∧ 4 < (7#3).toNat ∧ ¬ 4 < (BitVec.ofNat 3 (4 : Fin 5).val).toNat := by decide

theorem witness_RefreshDrivesAllRows :
    (manual.init = true ∧ manual.schedEn = false ∧ manual.backend = .sr ∧ manual.sr.quiet = true) ∧
    (panel.init = true ∧ panel.schedEn = false ∧ panel.backend = .fb) ∧ (running.init = true ∧ running.schedEn = true) := by decide

theorem witness_SettextStoresOrDrops :
    manual.init = true ∧ (text 16).length ≤ manual.params.textMax ∧ ¬ (text 17).length ≤ manual.params.textMax := by decide

theorem witness_ApptextAppendsOrDrops :
    manual.init = true ∧ { manual with textCur := text 2 }.textCur.length + (text 14).length ≤ manual.params.textMax ∧
    ¬ { manual with textCur := text 2 }.textCur.length + (text 15).length ≤ manual.params.textMax := by decide

theorem witness_CommandRunsIffDefined :
    commandDefined (.getlvl 4#3) manual = true ∧ commandDefined (.getlvl 5#3) manual = false ∧
    commandDefined .refresh running = false ∧ (cold.init = false ∧ ∀ k en table, Instr.clear ≠ .begin k en table) :=
  ⟨rfl, rfl, rfl, rfl, fun _ _ _ => nofun⟩

theorem witness_TickSamplesOneButton :
    (1 : Fin 5) ≠ running.btnCur ∧ (0 : Fin 5) = running.btnCur ∧
    (running.raw.get 0 = ((pinsNow running).getLsbD 0 ^^ running.params.btnActiveLow.getLsbD 0) ∧ (running.cnt.get 0).toNat < 3 ∧
      ({ running with cnt := .all 3#3 }.cnt.get 0).toNat = 3) ∧
    (running.raw.get 0 = false ∧
      ((pinsNow { running with pinDraws := [0#5] }).getLsbD 0 ^^ running.params.btnActiveLow.getLsbD 0) = true) ∧
    ({ running with raw := .all true }.raw.get 0 = true ∧
      ((pinsNow running).getLsbD 0 ^^ running.params.btnActiveLow.getLsbD 0) = false) := by decide

theorem witness_TickLatchesScanRow : running.backend = .sr ∧ running.sr.quiet = true := by decide

theorem witness_TickFillsScanRow : { panel with schedEn := true }.backend = .fb := by decide

theorem witness_CursorsAfterTicks :
    (running.scan = 0#3 ∧ running.btnCur = 0) ∧ ∃ t, exec .swap running = .next t := ⟨by decide, _, rfl⟩

theorem witness_TickIgnoresBackGrid :
    ∀ r : RowIndex, Memory.read [(0, 5#16), (8, 7#16)] (rowAddr (0#1) r).toNat =
      memRead { running with grid := [(0, 5#16), (9, 1#16)] } (rowAddr (0#1) r) := by decide

theorem witness_PinSequenceLoadsLatches : (quietPort 0xAB#8 0x1234#16).quiet = true := by decide

theorem witness_LitLedsAreTheRowBits : manual.sr.quiet = true ∧ 7 < 8 ∧ 7 < 8 ∧ 1 < 2 := by decide

theorem witness_BlankLightsNoLed : manual.sr.quiet = true := by decide

theorem witness_FiveSamplesCommitALevel :
    (Button.mk false 2#3 false false).raw = !true ∧ (Button.mk true 2#3 true false).raw = !false := by decide

/-- Of each kind of command one that completes, for every clause of the statement. -/
theorem witness_HostWriteRights :
    (∃ t, exec .swap running = .next t) ∧ (∃ t, exec .refresh manual = .next t) ∧ (∃ t, exec (.settext []) manual = .next t) ∧
    (∃ t, exec (.begin .fb true none) cold = .next t) ∧ (∃ t, exec (.strow 9#4 1#16) manual = .next t) ∧
    (∃ t, exec .getbuf manual = .next t) := ⟨⟨_, rfl⟩, ⟨_, rfl⟩, ⟨_, rfl⟩, ⟨_, rfl⟩, ⟨_, rfl⟩, ⟨_, rfl⟩⟩

theorem witness_FrontGridIsNeverWritten :
    (∃ t, exec (.strow 9#4 1#16) manual = .next t) ∧ writesBackGrid (.strow 9#4 1#16) manual = true ∧
    writesBackGrid (.strow 7#4 1#16) manual = false ∧ writesBackGrid (.strow 8#4 1#16) manual = true :=
  ⟨⟨_, rfl⟩, rfl, rfl, rfl⟩

/-- Also for StepKeepsTheInvariant and TracesOnlyGrow: a state after BEGIN that meets the invariant and steps. -/
theorem witness_ModeIsFixedAfterBegin : waiting.init = true ∧ Inv waiting ∧ ∃ t, step waiting = .next t :=
  ⟨rfl, waiting_inv, _, rfl⟩

theorem witness_OnlyBeginActsBeforeBegin :
    cold.init = false ∧ (∃ t, step { cold with cmd := [0x10000003#32] } = .next t) ∧ ∃ t, step { cold with turns := [.tick true] } = .next t :=
  ⟨rfl, ⟨_, rfl⟩, _, rfl⟩

theorem witness_ManualModeStaysQuiet :
    manual.schedEn = false ∧ (∃ t, step { manual with cmd := [0x50000000#32] } = .next t ∧ t.schedEn = false) ∧
    manual.ticks = 0#32 ∧ manual.lastTicks = 0#32 ∧ manual.btnCur = 0 ∧ manual.raw = .all false ∧ manual.cnt = .all 0#3 ∧
    manual.deb = .all false ∧ manual.edge = .all false ∧ manual.appLevel = .all false ∧ manual.appEdge = .all false :=
  ⟨rfl, ⟨_, rfl, rfl⟩, rfl, rfl, rfl, rfl, rfl, rfl, rfl, rfl, rfl⟩

theorem witness_ShiftRegisterNeverDrawsText :
    running.backend = .sr ∧ running.init = true ∧ ∃ t, step { running with textCur := text 2, cmd := [0x50000000#32] } = .next t :=
  ⟨rfl, rfl, _, rfl⟩

theorem witness_CanonicalMemoriesAreEqual :
    Memory.wf [(0, 1#16), (15, 0xFFFF#16)] = true ∧ Memory.wf [(0, 0#16)] = false ∧ Memory.wf [(16, 1#16)] = false ∧
    Memory.wf [(3, 1#16), (3, 2#16)] = false := by decide

theorem witness_SameTextIsDrawnOnce :
    panel.init = true ∧ panel.backend = .fb ∧ (text 16).length ≤ panel.params.textMax := by decide

theorem witness_SwapWaitRendersTwoRows :
    (running.init = true ∧ running.backend = .sr ∧ running.sr.quiet = true) ∧
    ({ panel with schedEn := true }.init = true ∧ { panel with schedEn := true }.backend = .fb) := by decide

end Sys2Proof.Tests
end

section
/-! The proofs of the statements on the state (10_state.md): what one host command can write, the serial lines' rest
state, the invariant, and what follows from them for every step. -/

namespace Sys2Proof.Machine

/-! ## The serial lines come to rest (R134, R136) -/

/-- The fixed sequence, from any chains with the clock lines at 0, loads chains and latches and leaves the clock lines
at 0. -/
theorem SerialPort.driveAll_pinSequence (p : SerialPort) (col : BitVec 16) (row : BitVec 8) (h : p.quiet = true) :
    p.driveAll (pinSequence col row) =
      { rowSr := row
        colSr := col
        rowLatch := row
        colLatch := col
        colData := col.getLsbD 0
        colClk := false
        rowData := row.getLsbD 0
        rowClk := false
        latch := false } := by
  obtain ⟨hc, hr, hl⟩ := (SerialPort.quiet_iff p).mp h
  have hcols : colBits = [15, 14, 13, 12, 11, 10, 9, 8, 7, 6, 5, 4, 3, 2, 1] ++ [0] := rfl
  have hrows : rowBits = [7, 6, 5, 4, 3, 2, 1] ++ [0] := rfl
  rw [pinSequence, driveAll_append, driveAll_append, hcols, driveAll_colRun _ _ _ _ hc, hrows, driveAll_rowRun,
    driveAll_latchPulse, ← hcols, ← hrows, shiftCols_colBits, shiftRows_rowBits]
  exacts [hl, hr]

theorem SerialPort.quiet_driveAll_pinSequence {p : SerialPort} (col : BitVec 16) (row : BitVec 8) (h : p.quiet = true) :
    (p.driveAll (pinSequence col row)).quiet = true := by
  rw [driveAll_pinSequence p col row h]
  rfl

theorem renderRow_quiet (r : RowIndex) {s : State} (h : s.sr.quiet = true) : (renderRow r s).sr.quiet = true := by
  cases hb : s.backend with
  | sr => simpa [renderRow, hb, renderRowSR] using SerialPort.quiet_driveAll_pinSequence _ _ h
  | fb => simpa [renderRow, hb, renderRowFB] using h

theorem renderNextN_quiet (n : Nat) {s : State} (h : s.sr.quiet = true) : (renderNextN n s).sr.quiet = true := by
  induction n generalizing s with
  | zero => exact h
  | succ n ih => exact ih (renderRow_quiet s.scan h)

theorem holdAndBlank_quiet {s : State} (h : s.sr.quiet = true) : (holdAndBlank s).sr.quiet = true := by
  cases hb : s.backend with
  | sr => simpa [holdAndBlank, hb, blankSR] using SerialPort.quiet_driveAll_pinSequence _ _ h
  | fb => simpa [holdAndBlank, hb] using h

theorem refreshAllRows_quiet {s : State} (h : s.sr.quiet = true) : (refreshAllRows s).sr.quiet = true :=
  holdAndBlank_quiet (renderNextN_quiet 8 h)

@[simp] theorem holdRequestIf_sr (b : Bool) (s : State) : (holdRequestIf b s).sr = s.sr := by
  obtain ⟨p, e, _⟩ := holdRequestIf_eq b s
  rw [e]

@[simp] theorem popPins_sr (s : State) : (popPins s).sr = s.sr := by
  obtain ⟨ps, n, e⟩ := popPins_eq s
  rw [e]

theorem tickBody_quiet (pins : Pins) {s : State} (h : s.sr.quiet = true) : (tickBody pins s).sr.quiet = true :=
  renderRow_quiet (countTick s).scan (s := countTick s) h

theorem tick_quiet (req : Bool) {s : State} (h : s.sr.quiet = true) : (tick req s).sr.quiet = true := by
  rw [tick, holdRequestIf_sr]
  exact tickBody_quiet (pinsNow s) (by rwa [popPins_sr])

/-! ## The front grid under the drawing commands (R38, R81, R82) -/

theorem setPixel_keeps_front (x y : Byte) (c : ColourIndex) (s : State) (r : RowIndex) :
    memRead (setPixel x y c s) (rowAddr s.front r) = memRead s (rowAddr s.front r) := by
  unfold setPixel
  split
  · exact (memRead_memWrite s _ _ _).trans (if_neg (backAddr_ne_frontAddr s (rowOf y) r))
  · rfl

theorem clearRows_keeps_front (s : State) (r : RowIndex) :
    memRead (clearRows rows s) (rowAddr s.front r) = memRead s (rowAddr s.front r) := by
  rw [memRead_clearRows, if_neg fun h => s.back_ne_front h.1.symm]

/-- The top bit of a row's address is its grid's number (R40). -/
theorem rowAddr_grid (g : BitVec 1) (r : RowIndex) : (rowAddr g r).extractLsb' 3 1 = g := by
  revert g r
  decide

/-- STROW to the back grid reaches no row of the front grid (R196). -/
theorem strow_keeps_front {a : GridAddr} {d : RowWord} {s : State} (h : writesBackGrid (.strow a d) s = true)
    (r : RowIndex) : memRead (memWrite s a d) (rowAddr s.front r) = memRead s (rowAddr s.front r) := by
  have hback : a.extractLsb' 3 1 = s.back := by simpa [writesBackGrid] using h
  have hne : rowAddr s.front r ≠ a := by
    rintro rfl
    exact s.back_ne_front (hback.symm.trans (rowAddr_grid s.front r))
  rw [memRead_memWrite, if_neg hne]

theorem setPixel_wf (x y : Byte) (c : ColourIndex) {s : State} (h : s.grid.wf = true) :
    (setPixel x y c s).grid.wf = true := by
  unfold setPixel
  split
  · exact memWrite_wf _ _ h
  · exact h

/-! ## Everything one host command can do (R38) -/

/-- The commands that respond a word. -/
def IsQuery (i : Instr) : Prop :=
  ∃ b a, i = .getbuf ∨ i = .getlvl b ∨ i = .getedge b ∨ i = .getticks ∨ i = .ldrow a

/-- The commands that write the grid RAM. -/
def IsDraw (i : Instr) : Prop :=
  ∃ x y c a d, i = .setpix x y c ∨ i = .clear ∨ i = .strow a d

/-- The write rights of R38 as a relation: the state that command `i` leaves, by the kind of the command. -/
inductive HostEffect (i : Instr) (s : State) : State → Prop
  /-- BEGIN writes the mode and the palette, once. -/
  | begin (k : Backend) (en : Bool) (table : Option ColourTable) (hi : i = .begin k en table) (hinit : s.init = false) :
      HostEffect i s { s with backend := k, schedEn := en, lut := lutAfterBegin table s.lut, init := true }
  /-- A query adds one word to the responses. -/
  | query (v : Word) (hi : IsQuery i) (hinit : s.init = true) : HostEffect i s (respond v s)
  /-- A drawing command writes the grid RAM, and the front grid only by a STROW to it. -/
  | draw (m : Memory) (hi : IsDraw i) (hinit : s.init = true) (hwf : s.grid.wf = true → m.wf = true)
      (hfront : writesBackGrid i s = true →
        ∀ r : RowIndex, m.read (rowAddr s.front r).toNat = memRead s (rowAddr s.front r)) :
      HostEffect i s { s with grid := m }
  /-- SWAP: the critical section's effects and the entry of the wait. -/
  | swap (shadow : List Byte) (es : List Event) (hi : i = .swap) (hinit : s.init = true)
      (hshadow : shadow = s.textShadow ∨ shadow = s.textCur) :
      HostEffect i s
        { s with
          appEdge := s.edge
          edge := .all false
          appLevel := s.deb
          lastTicks := s.ticks
          ticks := 0#32
          front := s.back
          textShadow := shadow
          out := s.out ++ es
          imask := false
          hphase := if s.schedEn then .swapWait else s.hphase }
  /-- REFRESH renders: SCAN, the serial port and the trace. -/
  | refresh (p : SerialPort) (es : List Event) (hi : i = .refresh) (hinit : s.init = true) (hmanual : s.schedEn = false)
      (hquiet : s.sr.quiet = true → p.quiet = true) :
      HostEffect i s { s with scan := 0#3, sr := p, out := s.out ++ es }
  /-- SETTEXT and APPTEXT write the current text, within its bound. -/
  | text (cur : List Byte) (hi : ∃ text, i = .settext text ∨ i = .apptext text) (hinit : s.init = true)
      (hcur : cur.length ≤ s.params.textMax ∨ cur = s.textCur) :
      HostEffect i s { s with textCur := cur, imask := false }

/-- A command that answers a next state has the effect of its kind. -/
theorem exec_effect {i : Instr} {s t : State} (h : exec i s = .next t) : HostEffect i s t := by
  cases i with
  | begin k en table =>
    obtain ⟨hinit, rfl⟩ := exec_begin_iff.mp h
    exact .begin k en table rfl hinit
  | getbuf =>
    obtain ⟨hinit, rfl⟩ := exec_getbuf_iff.mp h
    exact .query _ ⟨0, 0, by simp⟩ hinit
  | setpix x y c =>
    obtain ⟨hinit, rfl⟩ := exec_setpix_iff.mp h
    obtain ⟨m, hm⟩ := setPixel_frame x y c s
    have hwf := setPixel_wf x y c (s := s)
    have hfront := setPixel_keeps_front x y c s
    rw [hm] at hwf hfront ⊢
    exact .draw m ⟨x, y, c, 0, 0, by simp⟩ hinit hwf fun _ => hfront
  | clear =>
    obtain ⟨hinit, rfl⟩ := exec_clear_iff.mp h
    obtain ⟨m, hm⟩ := clearRows_frame rows s
    have hwf := clearRows_wf rows (s := s)
    have hfront := clearRows_keeps_front s
    rw [hm] at hwf hfront ⊢
    exact .draw m ⟨0, 0, 0, 0, 0, by simp⟩ hinit hwf fun _ => hfront
  | swap =>
    obtain ⟨hinit, rfl⟩ := exec_swap_iff.mp h
    obtain ⟨shadow, es, hs, hcases⟩ := swap_frame s
    rw [hs]
    exact .swap shadow es rfl hinit (hcases.imp And.left fun h => h.2.2.1)
  | getlvl b =>
    obtain ⟨hinit, k, _, rfl⟩ := exec_getlvl_iff.mp h
    exact .query _ ⟨b, 0, by simp⟩ hinit
  | getedge b =>
    obtain ⟨hinit, k, _, rfl⟩ := exec_getedge_iff.mp h
    exact .query _ ⟨b, 0, by simp⟩ hinit
  | getticks =>
    obtain ⟨hinit, rfl⟩ := exec_getticks_iff.mp h
    exact .query _ ⟨0, 0, by simp⟩ hinit
  | refresh =>
    obtain ⟨hinit, hmanual, rfl⟩ := exec_refresh_iff.mp h
    obtain ⟨p, es, hr⟩ := refreshAllRows_frame s
    have hquiet := refreshAllRows_quiet (s := s)
    rw [hr] at hquiet ⊢
    exact .refresh p es rfl hinit hmanual hquiet
  | settext text =>
    obtain ⟨hinit, rfl⟩ := exec_settext_iff.mp h
    obtain ⟨cur, hs, hcur⟩ := setText_frame text s
    rw [hs]
    exact .text cur ⟨text, .inl rfl⟩ hinit (hcur.imp (fun ⟨hle, hc⟩ => hc ▸ hle) And.right)
  | apptext text =>
    obtain ⟨hinit, rfl⟩ := exec_apptext_iff.mp h
    obtain ⟨cur, hs, hcur⟩ := appendText_frame text s
    rw [hs]
    exact .text cur ⟨text, .inr rfl⟩ hinit (hcur.imp (fun ⟨hle, hc⟩ => by simpa [hc] using hle) And.right)
  | ldrow a =>
    obtain ⟨hinit, rfl⟩ := exec_ldrow_iff.mp h
    exact .query _ ⟨0, a, by simp⟩ hinit
  | strow a d =>
    obtain ⟨hinit, rfl⟩ := exec_strow_iff.mp h
    exact .draw _ ⟨0, 0, 0, a, d, by simp⟩ hinit (memWrite_wf a d) strow_keeps_front

section
variable {i : Instr} {s t : State} (h : exec i s = .next t)
include h

theorem exec_keeps_debounce : t.raw = s.raw ∧ t.cnt = s.cnt ∧ t.deb = s.deb ∧ t.btnCur = s.btnCur := by
  cases exec_effect h <;> exact ⟨rfl, rfl, rfl, rfl⟩

theorem exec_keeps_environment :
    t.cmd = s.cmd ∧ t.turns = s.turns ∧ t.pinDraws = s.pinDraws ∧ t.draws = s.draws ∧ t.params = s.params ∧
      t.heldMarks = s.heldMarks ∧ t.tickSource = s.tickSource := by
  cases exec_effect h <;> exact ⟨rfl, rfl, rfl, rfl, rfl, rfl, rfl⟩

theorem exec_keeps_tpend : t.tpend = s.tpend := by
  cases exec_effect h <;> rfl

/-- A command leaves the mask as it was, or cleared (R46). -/
theorem exec_imask_clear (hm : s.imask = false) : t.imask = false := by
  cases exec_effect h with
  | swap | text => rfl
  | begin | query | draw | refresh => exact hm

theorem exec_keeps_swapState (hi : i ≠ .swap) :
    t.front = s.front ∧ t.ticks = s.ticks ∧ t.lastTicks = s.lastTicks ∧ t.edge = s.edge ∧ t.appEdge = s.appEdge ∧
      t.appLevel = s.appLevel ∧ t.textShadow = s.textShadow ∧ t.hphase = s.hphase := by
  cases exec_effect h with
  | swap _ _ hswap => exact absurd hswap hi
  | begin | query | draw | refresh | text => exact ⟨rfl, rfl, rfl, rfl, rfl, rfl, rfl, rfl⟩

theorem exec_keeps_scan_sr (hi : i ≠ .refresh) : t.scan = s.scan ∧ t.sr = s.sr := by
  cases exec_effect h with
  | refresh _ _ hrefresh => exact absurd hrefresh hi
  | begin | query | draw | swap | text => exact ⟨rfl, rfl⟩

theorem exec_keeps_out (hr : i ≠ .refresh) (hs : i ≠ .swap) : t.out = s.out := by
  cases exec_effect h with
  | refresh _ _ hrefresh => exact absurd hrefresh hr
  | swap _ _ hswap => exact absurd hswap hs
  | begin | query | draw | text => rfl

theorem exec_keeps_textCur (hi : ∀ text, i ≠ .settext text ∧ i ≠ .apptext text) : t.textCur = s.textCur := by
  cases exec_effect h with
  | text _ htext =>
    obtain ⟨text, hset | happ⟩ := htext
    · exact absurd hset (hi text).1
    · exact absurd happ (hi text).2
  | begin | query | draw | swap | refresh => rfl

theorem exec_keeps_mode (hi : ∀ k en table, i ≠ .begin k en table) :
    t.lut = s.lut ∧ t.backend = s.backend ∧ t.schedEn = s.schedEn ∧ t.init = s.init := by
  cases exec_effect h with
  | begin k en table hbegin => exact absurd hbegin (hi k en table)
  | query | draw | swap | refresh | text => exact ⟨rfl, rfl, rfl, rfl⟩

theorem exec_keeps_grid (hi : ∀ x y c a d, i ≠ .setpix x y c ∧ i ≠ .clear ∧ i ≠ .strow a d) : t.grid = s.grid := by
  cases exec_effect h with
  | draw _ hdraw =>
    obtain ⟨x, y, c, a, d, hd⟩ := hdraw
    simp [hi x y c a d] at hd
  | begin | query | swap | refresh | text => rfl

theorem exec_keeps_resp
    (hi : ∀ b a, i ≠ .getbuf ∧ i ≠ .getlvl b ∧ i ≠ .getedge b ∧ i ≠ .getticks ∧ i ≠ .ldrow a) : t.resp = s.resp := by
  cases exec_effect h with
  | query _ hquery =>
    obtain ⟨b, a, hq⟩ := hquery
    simp [hi b a] at hq
  | begin | draw | swap | refresh | text => rfl

/-- The responses grow by at most one word (R62). -/
theorem exec_resp_grows : ∃ v, t.resp = s.resp ∨ t.resp = s.resp ++ [v] := by
  cases exec_effect h with
  | query v => exact ⟨v, .inr rfl⟩
  | begin | draw | swap | refresh | text => exact ⟨0, .inl rfl⟩

theorem exec_traces_grow : s.out <+: t.out ∧ s.resp <+: t.resp := by
  cases exec_effect h with
  | query => exact ⟨List.prefix_rfl, List.prefix_append _ _⟩
  | swap | refresh => exact ⟨List.prefix_append _ _, List.prefix_rfl⟩
  | begin | draw | text => exact ⟨List.prefix_rfl, List.prefix_rfl⟩

/-- No command changes the mode once BEGIN has executed: a second BEGIN is refused (R160). -/
theorem exec_mode_fixed (hinit : s.init = true) :
    t.lut = s.lut ∧ t.backend = s.backend ∧ t.schedEn = s.schedEn ∧ t.init = s.init := by
  refine exec_keeps_mode h ?_
  rintro k en table rfl
  simp [(exec_begin_iff.mp h).1] at hinit

theorem exec_keeps_front_grid (hb : writesBackGrid i s = true) (r : RowIndex) :
    memRead t (rowAddr s.front r) = memRead s (rowAddr s.front r) := by
  cases exec_effect h with
  | draw _ _ _ _ hfront => exact hfront hb r
  | begin | query | swap | refresh | text => rfl

end

/-! ## The invariant -/

section
variable {s : State} (h : Inv s)
include h

/-- The invariant does not speak of the schedule, the marks or the command port. -/
theorem Inv.environment (ts : List Turn) (ms : List Bool) (ws : List Word) :
    Inv { s with turns := ts, heldMarks := ms, cmd := ws } := { h with }

theorem Inv.tpend {b : Bool} (hb : b = s.tpend ∨ timerRunning s = true) : Inv { s with tpend := b } :=
  { h with heldRunning := fun hp => hb.elim (fun e => h.heldRunning (e ▸ hp)) id }

theorem Inv.holdRequestIf (b : Bool) : Inv (holdRequestIf b s) := by
  obtain ⟨p, e, hp⟩ := holdRequestIf_eq b s
  rw [e]
  exact h.tpend (hp.imp_right And.right)

theorem Inv.completeSwap : Inv (completeSwap s) := { h with waitScheduled := nofun, waitTicks := nofun }

/-- A sample keeps every counter below DEBOUNCE_N (R22). -/
theorem Inv.sampled_cnt_lt (b c : Fin 5) (level : Bool) :
    ((s.setButton b (debounce level (s.button b))).cnt.get c).toNat < 4 := by
  rw [setButton_cnt]
  by_cases hc : c = b
  · subst hc
    rw [PerButton.get_set_same]
    exact debounce_cnt_lt (h.cntBelowFour c)
  · rw [PerButton.get_set_other _ _ hc]
    exact h.cntBelowFour c

/-- A TICK keeps the invariant; while the host waits it finds TICKS below 2, as SWAP is not due (R87, R115). -/
theorem Inv.tick (req : Bool) (hdue : swapDue s = false) : Inv (tick req s) := by
  have hquiet := tick_quiet req h.linesQuiet
  obtain ⟨p, es, tp, ps, n, e, htp⟩ := tick_frame req s
  rw [e] at hquiet ⊢
  have hwait : s.hphase = .swapWait → (s.ticks + 1#32).toNat ≤ 2 := by
    intro hw
    have hlt : ¬ 2 ≤ s.ticks.toNat := fun h2 => by simp [(swapDue_iff s).mpr ⟨hw, h2⟩] at hdue
    simp only [BitVec.toNat_add, BitVec.toNat_ofNat]
    omega
  exact { h with
    cntBelowFour := fun c => h.sampled_cnt_lt _ c _
    linesQuiet := hquiet
    waitTicks := hwait
    heldRunning := fun hp => (Bool.and_eq_true _ _ |>.mp (htp.symm.trans hp)).2 }

/-- Before BEGIN the host does not wait. -/
theorem Inv.not_waiting_of_not_init (hinit : s.init = false) : s.hphase ≠ .swapWait := fun hw => by
  simp [h.schedBegun (h.waitScheduled hw)] at hinit

/-- Before BEGIN no tick request is held. -/
theorem Inv.not_held_of_not_init (hinit : s.init = false) : s.tpend ≠ true := fun hp => by
  simpa [timerRunning, hinit] using h.heldRunning hp

/-- Every command keeps the invariant. -/
theorem Inv.exec {i : Instr} {t : State} (he : exec i s = .next t) : Inv t := by
  cases exec_effect he with
  | begin k en table _ hinit =>
    exact { h with
      schedBegun := fun _ => rfl
      waitScheduled := fun hw => absurd hw (h.not_waiting_of_not_init hinit)
      heldRunning := fun hp => absurd hp (h.not_held_of_not_init hinit) }
  | query => exact { h with }
  | draw _ _ _ hwf => exact { h with gridCanonical := hwf h.gridCanonical }
  | swap shadow _ _ _ hshadow =>
    have hfits : shadow.length ≤ s.params.textMax := by
      rcases hshadow with rfl | rfl
      · exact h.shadowFits
      · exact h.curFits
    have hwait : (if s.schedEn then HPhase.swapWait else s.hphase) = .swapWait → s.schedEn = true := by
      cases hs : s.schedEn with
      | true => exact fun _ => rfl
      | false => exact fun hw => hs ▸ h.waitScheduled hw
    exact { h with
      shadowFits := hfits
      maskClear := rfl
      waitScheduled := hwait
      waitTicks := fun _ => Nat.zero_le 2 }
  | refresh _ _ _ _ _ hquiet => exact { h with linesQuiet := hquiet h.linesQuiet }
  | text cur _ _ hcur =>
    have hfits : cur.length ≤ s.params.textMax := by
      rcases hcur with hle | rfl
      · exact hle
      · exact h.curFits
    exact { h with curFits := hfits, maskClear := rfl }

end

/-- The device's parameters are in range by the way they are built: TEXT_MAX from a `Fin 255`, the cell sizes from a
successor (R4, R138). -/
theorem config_params_wf : Config.params.wf = true := by
  simp [Params.wf, Config.params]

/-! ## The statements -/

/-- Settles O48, by the kinds of a step: an idle move, SWAP's completion, a TICK, a command. -/
theorem stepKeepsTheInvariant : Obligations.StepKeepsTheInvariant := by
  intro s t hinv hstep
  refine step_relates (fun s t => Inv s → Inv t) ?idle ?complete ?ticks ?command hstep hinv
  case idle => exact fun s ts b hb h => (h.environment ts s.heldMarks s.cmd).tpend hb
  case complete => exact fun s _ h => h.completeSwap
  case ticks => exact fun s ts ms req hdue _ h => (h.environment ts ms s.cmd).tick req hdue
  case command => exact fun s ts i rest u b _ _ he h => ((h.environment ts s.heldMarks rest).exec he).holdRequestIf b

/-- Settles O41: each clause is a frame lemma of `exec`. -/
theorem hostWriteRights : Obligations.HostWriteRights := fun _ _ _ h =>
  ⟨exec_keeps_debounce h, exec_keeps_environment h, ⟨exec_keeps_tpend h, exec_imask_clear h⟩, exec_keeps_swapState h,
    exec_keeps_scan_sr h, fun hi => exec_keeps_out h hi.1 hi.2, exec_keeps_textCur h, exec_keeps_mode h,
    exec_keeps_grid h, exec_keeps_resp h, exec_resp_grows h⟩

/-- Settles O42: SETPIX and CLEAR address the back grid, and STROW does by the host's contract. -/
theorem frontGridIsNeverWritten : Obligations.FrontGridIsNeverWritten := fun _ _ _ => exec_keeps_front_grid

/-- Settles O43: only BEGIN writes the mode, and a second BEGIN is refused. -/
theorem modeIsFixedAfterBegin : Obligations.ModeIsFixedAfterBegin := by
  intro s t hinit hstep
  refine step_relates (fun s t => s.init = true → t.init = true ∧ t.backend = s.backend ∧ t.schedEn = s.schedEn ∧
    t.lut = s.lut ∧ t.params = s.params) ?idle ?complete ?ticks ?command hstep hinit
  case idle => exact fun s ts b _ h => ⟨h, rfl, rfl, rfl, rfl⟩
  case complete => exact fun s _ h => ⟨h, rfl, rfl, rfl, rfl⟩
  case ticks =>
    intro s ts ms req _ _ h
    obtain ⟨p, es, tp, ps, n, e, _⟩ := tick_frame req { s with turns := ts, heldMarks := ms }
    rw [e]
    exact ⟨h, rfl, rfl, rfl, rfl⟩
  case command =>
    intro s ts i rest u b _ _ he h
    obtain ⟨hlut, hbackend, hsched, hu⟩ := exec_mode_fixed he h
    obtain ⟨_, _, _, _, hparams, _, _⟩ := exec_keeps_environment he
    obtain ⟨p, e, _⟩ := holdRequestIf_eq b u
    rw [e]
    exact ⟨hu.trans h, hbackend, hsched, hlut, hparams⟩

/-- Settles O47: a TICK and a command append to the traces, every other move leaves them. -/
theorem tracesOnlyGrow : Obligations.TracesOnlyGrow := by
  intro s t hstep
  refine step_relates (fun s t => s.out <+: t.out ∧ s.resp <+: t.resp) ?idle ?complete ?ticks ?command hstep
  case idle => exact fun s ts b _ => ⟨List.prefix_rfl, List.prefix_rfl⟩
  case complete => exact fun s _ => ⟨List.prefix_rfl, List.prefix_rfl⟩
  case ticks =>
    intro s ts ms req _ _
    obtain ⟨p, es, tp, ps, n, e, _⟩ := tick_frame req { s with turns := ts, heldMarks := ms }
    rw [e]
    exact ⟨List.prefix_append _ _, List.prefix_rfl⟩
  case command =>
    intro s ts i rest u b _ _ he
    obtain ⟨p, e, _⟩ := holdRequestIf_eq b u
    rw [e]
    exact (exec_traces_grow he :)

/-- Settles O49: at reset everything is 0 or empty, and the parameters are in range whatever they are. -/
theorem resetMeetsTheInvariant : Obligations.ResetMeetsTheInvariant where
  gridCanonical := rfl
  cntBelowFour b := by simp [State.reset]
  curFits := Nat.zero_le _
  shadowFits := Nat.zero_le _
  linesQuiet := rfl
  maskClear := rfl
  schedBegun := nofun
  waitScheduled := nofun
  waitTicks := nofun
  heldRunning := nofun
  paramsInRange := config_params_wf

/-- Settles O50: the arrays by their uniform value, every other register by its definition. -/
theorem resetValues : Obligations.ResetValues := by
  have harrays : ∀ b : Fin 5, State.reset.raw.get b = false ∧ State.reset.cnt.get b = 0#3 ∧
      State.reset.deb.get b = false ∧ State.reset.edge.get b = false ∧ State.reset.appLevel.get b = false ∧
      State.reset.appEdge.get b = false := fun b => by simp [State.reset]
  exact ⟨fun _ => rfl, rfl, rfl, rfl, rfl, rfl, rfl, harrays, rfl, rfl, rfl, rfl, rfl, rfl, rfl, rfl, rfl, rfl, rfl, rfl,
    rfl, rfl⟩

end Sys2Proof.Machine
end

section
/-! The proofs of the statements on the memory model (20_memory.md): the canonical form of the grid RAM is unique, what a
TICK does not read, and how a step runs the host's command and the tick request it held off. -/

namespace Sys2Proof.Machine

/-! ## The canonical form is unique (R40, R41) -/

/-- The first entry of a canonical memory shows in its reads. -/
theorem Memory.read_head_ne_zero {lo k : Nat} {w : RowWord} {m : Memory} (h : Memory.wfFrom lo ((k, w) :: m) = true) :
    Memory.read ((k, w) :: m) k ≠ 0#16 := by
  obtain ⟨_, _, hw, _⟩ := Memory.wfFrom_cons.mp h
  rwa [Memory.read, if_pos rfl]

/-- The reads of a canonical memory determine the reads of its tail. -/
theorem Memory.read_tail {k : Nat} {w : RowWord} {m : Memory} (h : Memory.wfFrom (k + 1) m = true) (a : Nat) :
    m.read a = if a = k then 0#16 else Memory.read ((k, w) :: m) a := by
  by_cases ha : a = k
  · rw [if_pos ha, Memory.read_below h (by omega)]
  · rw [if_neg ha, Memory.read, if_neg (Ne.symm ha)]

/-- A canonical memory whose first entry is read alike by another canonical memory starts no earlier than that one. -/
theorem Memory.head_le_head {lo lo' k k' : Nat} {w w' : RowWord} {m n : Memory}
    (hm : Memory.wfFrom lo ((k, w) :: m) = true) (hn : Memory.wfFrom lo' ((k', w') :: n) = true)
    (h : Memory.read ((k, w) :: m) k = Memory.read ((k', w') :: n) k) : k' ≤ k := by
  by_contra hlt
  obtain ⟨_, hrest⟩ := Memory.wfFrom_cons.mp hn
  have hn' : Memory.wfFrom k' ((k', w') :: n) = true := Memory.wfFrom_cons.mpr ⟨le_refl k', hrest⟩
  exact Memory.read_head_ne_zero hm (h.trans (Memory.read_below hn' (by omega)))

theorem Memory.eq_of_read_eq {lo : Nat} {m n : Memory} (hm : Memory.wfFrom lo m = true) (hn : Memory.wfFrom lo n = true)
    (h : ∀ a, m.read a = n.read a) : m = n := by
  induction m generalizing lo n with
  | nil =>
    cases n with
    | nil => rfl
    | cons e n => exact absurd (h e.1).symm (Memory.read_head_ne_zero hn)
  | cons e m ih =>
    obtain ⟨k, w⟩ := e
    cases n with
    | nil => exact absurd (h k) (Memory.read_head_ne_zero hm)
    | cons e' n =>
      obtain ⟨k', w'⟩ := e'
      obtain rfl : k = k' :=
        le_antisymm (Memory.head_le_head hn hm (h k').symm) (Memory.head_le_head hm hn (h k))
      obtain rfl : w = w' := by simpa [Memory.read] using h k
      obtain ⟨_, _, _, hm'⟩ := Memory.wfFrom_cons.mp hm
      obtain ⟨_, _, _, hn'⟩ := Memory.wfFrom_cons.mp hn
      rw [ih hm' hn' fun a => by rw [Memory.read_tail (w := w) hm', Memory.read_tail (w := w) hn', h]]

/-- A canonical memory lists no address beyond the RAM. -/
theorem Memory.read_beyond {lo : Nat} {m : Memory} {a : Nat} (h : Memory.wfFrom lo m = true) (ha : 16 ≤ a) :
    m.read a = 0#16 := by
  by_contra hr
  exact absurd (Memory.read_lt_of_ne h hr) (by omega)

/-- Settles O51: beyond the 16 addresses both memories read 0, and the entries of a canonical memory are determined by its
reads, the first one by the least address that does not read 0. -/
theorem canonicalMemoriesAreEqual : Obligations.CanonicalMemoriesAreEqual := by
  intro m n hm hn h
  refine Memory.eq_of_read_eq hm hn fun a => ?_
  by_cases ha : a < 16
  · exact h ⟨a, ha⟩
  · rw [Memory.read_beyond hm (by omega), Memory.read_beyond hn (by omega)]

/-! ## The fields of a state after a TICK (R38, R115) -/

section
variable (req : Bool) (s : State)

@[simp] theorem tick_grid : (tick req s).grid = s.grid := by
  obtain ⟨p, es, tp, ps, n, e, _⟩ := tick_frame req s
  rw [e]
  rfl

@[simp] theorem tick_hphase : (tick req s).hphase = s.hphase := by
  obtain ⟨p, es, tp, ps, n, e, _⟩ := tick_frame req s
  rw [e]
  rfl

@[simp] theorem tick_turns : (tick req s).turns = s.turns := by
  obtain ⟨p, es, tp, ps, n, e, _⟩ := tick_frame req s
  rw [e]
  rfl

@[simp] theorem tick_ticks : (tick req s).ticks = s.ticks + 1#32 := by
  obtain ⟨p, es, tp, ps, n, e, _⟩ := tick_frame req s
  rw [e]

@[simp] theorem tick_tpend : (tick req s).tpend = (req && timerRunning s) := by
  obtain ⟨p, es, tp, ps, n, e, htp⟩ := tick_frame req s
  rw [e]
  exact htp

/-- With the timer running, a request that arrives while a TICK runs is held (R173). -/
theorem tick_tpend_of_running (h : timerRunning s = true) : (tick req s).tpend = req := by
  rw [tick_tpend, h, Bool.and_true]

end

/-! ## What a TICK does not read: HPHASE and the back grid (R49, R87)

Both independence statements are one: a TICK commutes with overwriting HPHASE and the grid RAM, as long as the words of the
front grid stay. -/

theorem renderRow_of_sr {s : State} (r : RowIndex) (h : s.backend = .sr) :
    renderRow r s = renderRowSR r (memRead s (frontAddr s r)) s := by
  simp only [renderRow, h]

theorem renderRow_of_fb {s : State} (r : RowIndex) (h : s.backend = .fb) :
    renderRow r s = renderRowFB r (memRead s (frontAddr s r)) s := by
  simp only [renderRow, h]

/-- A request that arrived in a step, as one update of TPEND (R172, R173). -/
theorem holdRequestIf_eq_or (b : Bool) (s : State) :
    holdRequestIf b s = { s with tpend := s.tpend || (b && timerRunning s) } := by
  cases b with
  | false => simp
  | true => rcases holdRequest_cases s with ⟨h, e⟩ | ⟨h, e⟩ <;> simp [e, h]

section
variable (hp : HPhase) (m : Memory) (s : State)

theorem popPins_overwrite : popPins { s with hphase := hp, grid := m } = { popPins s with hphase := hp, grid := m } := by
  cases h : s.pinDraws <;> simp [popPins, h]

theorem holdRequestIf_overwrite (b : Bool) :
    holdRequestIf b { s with hphase := hp, grid := m } = { holdRequestIf b s with hphase := hp, grid := m } := by
  rw [holdRequestIf_eq_or, holdRequestIf_eq_or]
  rfl

/-- A row render reads the grid RAM at the row's front address only (R131). -/
theorem renderRow_overwrite (r : RowIndex) (h : m.read (frontAddr s r).toNat = memRead s (frontAddr s r)) :
    renderRow r { s with hphase := hp, grid := m } = { renderRow r s with hphase := hp, grid := m } := by
  have hread : memRead { s with hphase := hp, grid := m } (frontAddr { s with hphase := hp, grid := m } r) =
      memRead s (frontAddr s r) := h
  obtain hb | hb : s.backend = .sr ∨ s.backend = .fb := by cases s.backend <;> decide
  · rw [renderRow_of_sr r hb, renderRow_of_sr (s := { s with hphase := hp, grid := m }) r hb, hread]
    rfl
  · rw [renderRow_of_fb r hb, renderRow_of_fb (s := { s with hphase := hp, grid := m }) r hb, hread]
    rfl

theorem tickBody_overwrite (pins : Pins) (h : m.read (frontAddr s s.scan).toNat = memRead s (frontAddr s s.scan)) :
    tickBody pins { s with hphase := hp, grid := m } = { tickBody pins s with hphase := hp, grid := m } := by
  have hr : renderRow s.scan (countTick { s with hphase := hp, grid := m }) =
      { renderRow s.scan (countTick s) with hphase := hp, grid := m } := renderRow_overwrite hp m (countTick s) s.scan h
  simp only [tickBody, countTick_scan, hr]
  rfl

theorem tick_overwrite (req : Bool) (h : m.read (frontAddr s s.scan).toNat = memRead s (frontAddr s s.scan)) :
    tick req { s with hphase := hp, grid := m } = { tick req s with hphase := hp, grid := m } := by
  have hpop := popPins_overwrite hp m { s with tpend := false }
  obtain ⟨ps, n, e⟩ := popPins_eq { s with tpend := false }
  have hbody : tickBody (pinsNow s) { popPins { s with tpend := false } with hphase := hp, grid := m } =
      { tickBody (pinsNow s) (popPins { s with tpend := false }) with hphase := hp, grid := m } :=
    tickBody_overwrite hp m _ _ (by rw [e]; exact h)
  calc tick req { s with hphase := hp, grid := m }
      = holdRequestIf req (tickBody (pinsNow s) (popPins { s with tpend := false, hphase := hp, grid := m })) := rfl
    _ = { tick req s with hphase := hp, grid := m } := by rw [hpop, hbody, holdRequestIf_overwrite]; rfl

end

/-- Settles O36: the row that a TICK renders is a row of the front grid. -/
theorem tickIgnoresBackGrid : Obligations.TickIgnoresBackGrid := by
  intro s m req h
  rw [tick_overwrite s.hphase m s req (h s.scan), ← tick_hphase req s]

/-- Settles O12: a TICK does not read HPHASE. -/
theorem swapCompletionCommutesWithTick : Obligations.SwapCompletionCommutesWithTick := by
  intro s req
  rw [tick_overwrite .idle s.grid s req rfl, ← tick_grid req s]

/-! ## The step on the host's turn and with a request held (R48, R60, R173) -/

theorem mapNext_holdRequestIf_false (o : Host.Outcome State Fault Refusal) : mapNext (holdRequestIf false) o = o := by
  cases o <;> rfl

section
variable {s : State}

/-- The host's move of an idle block with a command at its port runs the command. -/
theorem hostMove_of_instr {i : Instr} {rest : List Word} (hidle : s.hphase = .idle) (hdec : decode s.cmd = .instr i rest)
    (req : Bool) :
    hostMove req s = mapNext (holdRequestIf (req && hasCriticalSection i)) (exec i { s with cmd := rest }) := by
  simp [hostMove, hidle, acceptCommand, hdec, runCommand]

theorem hostReady_of_instr {i : Instr} {rest : List Word} (hidle : s.hphase = .idle)
    (hdec : decode s.cmd = .instr i rest) : hostReady s = true := by
  simp [hostReady, hidle, hdec]

/-- With nothing due and nothing held, a host entry of the schedule is the host's move. -/
theorem step_of_hostTurn {req : Bool} {ts : List Turn} (hdue : swapDue s = false) (hheld : pendingServed s = false)
    (ht : s.turns = .host req :: ts) : step s = hostMove req { s with turns := ts } := by
  simp [step, takeTurn, hdue, hheld, ht]

/-- With nothing due and nothing held, the step after the schedule's end is the default move. -/
theorem step_of_noTurns (hdue : swapDue s = false) (hheld : pendingServed s = false) (ht : s.turns = []) :
    step s = defaultMove s := by
  simp [step, takeTurn, hdue, hheld, ht]

/-- A held request is served before the schedule's next entry (R173). -/
theorem step_serves_held (hdue : swapDue s = false) (hheld : pendingServed s = true) : step s = .next (tickHeld s) := by
  simp [step, takeTurn, hdue, hheld]

end

/-- Settles O7: the host's move runs the command at the port, by the schedule or, after it, by default. -/
theorem stepRunsDecodedCommand : Obligations.StepRunsDecodedCommand := by
  intro s i rest hheld hidle hdec
  refine ⟨fun req ts ht => ?scheduled, fun ht => ?default⟩
  case scheduled =>
    rw [step_of_hostTurn (swapDue_of_idle hidle) hheld ht]
    exact hostMove_of_instr (s := { s with turns := ts }) hidle hdec req
  case default =>
    rw [step_of_noTurns (swapDue_of_idle hidle) hheld ht, defaultMove, if_pos (hostReady_of_instr hidle hdec),
      hostMove_of_instr hidle hdec false, Bool.false_and, mapNext_holdRequestIf_false]

/-- Right after TICKS was set to 0 no SWAP is due (R84, R87). -/
theorem swapDue_of_ticks_zero {s : State} (h : s.ticks = 0#32) : swapDue s = false := by
  simp [Bool.eq_false_iff, swapDue_iff, h]

/-- After BEGIN a command with a critical section completes with the mask clear; SWAP zeroes TICKS and the others keep
it, and no SWAP is due right after it (R46, R83, R84). -/
theorem exec_critical {i : Instr} {s : State} (hcrit : hasCriticalSection i = true) (hinit : s.init = true)
    (hidle : s.hphase = .idle) :
    ∃ u, exec i s = .next u ∧ u.imask = false ∧ u.ticks = (if i = .swap then 0#32 else s.ticks) ∧ swapDue u = false := by
  cases i with
  | swap =>
    obtain ⟨sh, ev, e, _⟩ := swap_frame s
    refine ⟨_, exec_swap_iff.mpr ⟨hinit, rfl⟩, ?_⟩
    rw [e]
    exact ⟨rfl, rfl, swapDue_of_ticks_zero rfl⟩
  | settext text =>
    obtain ⟨cur, e, _⟩ := setText_frame text s
    refine ⟨_, exec_settext_iff.mpr ⟨hinit, rfl⟩, ?_⟩
    rw [e]
    exact ⟨rfl, rfl, swapDue_of_idle hidle⟩
  | apptext text =>
    obtain ⟨cur, e, _⟩ := appendText_frame text s
    refine ⟨_, exec_apptext_iff.mpr ⟨hinit, rfl⟩, ?_⟩
    rw [e]
    exact ⟨rfl, rfl, swapDue_of_idle hidle⟩
  | begin | getbuf | setpix | clear | getlvl | getedge | getticks | refresh | ldrow | strow => cases hcrit

/-- Settles O15: the request leaves TPEND = 1 behind the critical section, and the next step finds the mask clear and no
SWAP due, as SWAP has just zeroed TICKS. -/
theorem maskedRequestIsServedNext : Obligations.MaskedRequestIsServedNext := by
  intro s i rest ts hheld hidle hturn hdec hinit hsched hi
  have hcrit : hasCriticalSection i = true := by
    obtain rfl | ⟨text, rfl | rfl⟩ := hi <;> rfl
  obtain ⟨u, hu, hmask, hticks, hdue⟩ := exec_critical (s := { s with turns := ts, cmd := rest }) hcrit hinit hidle
  obtain ⟨_, _, hsched', hinit'⟩ := exec_mode_fixed hu hinit
  obtain ⟨_, hturns, _, _, _, hmarks, _⟩ := exec_keeps_environment hu
  have hrun : timerRunning u = true := by simp [timerRunning, hinit', hsched', hinit, hsched]
  have hstep : step s = .next { u with tpend := true } := by
    obtain ⟨hscheduled, _⟩ := stepRunsDecodedCommand s i rest hheld hidle hdec
    rw [hscheduled true ts hturn, hu, hcrit]
    simp [holdRequest, hrun]
  have hserved : step { u with tpend := true } = .next (tickHeld { u with tpend := true }) :=
    step_serves_held hdue ((tickEnabled_iff _).mpr ⟨hinit'.trans hinit, hsched'.trans hsched, hmask⟩)
  have hheldTick : tickHeld { u with tpend := true } =
      tick (s.heldMarks.headD false) { u with tpend := true, heldMarks := s.heldMarks.tail } := by
    simp [tickHeld, heldMark, popHeldMark, hmarks]
  refine ⟨_, hstep, rfl, hmask, hticks, hmarks, _, hserved, hheldTick, ?_⟩
  rw [hheldTick]
  exact ⟨tick_ticks _ _, tick_tpend_of_running _ _ hrun, (tick_turns _ _).trans hturns⟩

end Sys2Proof.Machine
end

section
/-! The proofs of the statements on the command encoding (30_encoding.md): what each header format accepts, the payloads as
the words of what they encode, the two directions of the codec, and what the step makes of a presented or a reserved word. -/

namespace Sys2Proof

/-! ## What each header format accepts (R63, R70) -/

section
variable {h : Word} {hd : Header}

theorem decodeM_eq_ok_iff : decodeM h = .ok hd ↔ h.extractLsb' 3 25 = 0#25 ∧
    (h.getLsbD 2 = true ∧ hd = .table (backendOfBit (h.getLsbD 0)) (h.getLsbD 1) ∨
      h.getLsbD 2 = false ∧ hd = .single (.begin (backendOfBit (h.getLsbD 0)) (h.getLsbD 1) none)) := by
  by_cases hz : h.extractLsb' 3 25 = 0#25 <;> cases ht : h.getLsbD 2 <;>
    simp [decodeM, hz, ht, -BitVec.getLsbD_eq_getElem, eq_comm]

theorem decodeN_eq_ok_iff {i : Instr} : decodeN h i = .ok hd ↔ h.extractLsb' 0 28 = 0#28 ∧ hd = .single i := by
  by_cases hz : h.extractLsb' 0 28 = 0#28 <;> simp [decodeN, hz, eq_comm]

theorem decodeP_eq_ok_iff : decodeP h = .ok hd ↔ h.extractLsb' 18 10 = 0#10 ∧
    hd = .single (.setpix (h.extractLsb' 0 8) (h.extractLsb' 8 8) (h.extractLsb' 16 2)) := by
  by_cases hz : h.extractLsb' 18 10 = 0#10 <;> simp [decodeP, hz, eq_comm]

theorem decodeB_eq_ok_iff {mk : BitVec 3 → Instr} :
    decodeB h mk = .ok hd ↔ h.extractLsb' 3 25 = 0#25 ∧ hd = .single (mk (h.extractLsb' 0 3)) := by
  by_cases hz : h.extractLsb' 3 25 = 0#25 <;> simp [decodeB, hz, eq_comm]

theorem decodeA_eq_ok_iff :
    decodeA h = .ok hd ↔ h.extractLsb' 4 24 = 0#24 ∧ hd = .single (.ldrow (h.extractLsb' 0 4)) := by
  by_cases hz : h.extractLsb' 4 24 = 0#24 <;> simp [decodeA, hz, eq_comm]

theorem decodeW_eq_ok_iff : decodeW h = .ok hd ↔ h.extractLsb' 20 8 = 0#8 ∧
    hd = .single (.strow (h.extractLsb' 16 4) (h.extractLsb' 0 16)) := by
  by_cases hz : h.extractLsb' 20 8 = 0#8 <;> simp [decodeW, hz, eq_comm]

theorem decodeT_eq_ok_iff {append : Bool} :
    decodeT h append = .ok hd ↔ h.extractLsb' 8 20 = 0#20 ∧ hd = .text append (h.extractLsb' 0 8) := by
  by_cases hz : h.extractLsb' 8 20 = 0#20 <;> simp [decodeT, hz, eq_comm]

end

/-! ## The opcode map by opcode and operand width (R65) -/

/-- A row of the opcode map: its mnemonic, its opcode, and how many low bits of the header hold operands. -/
structure OpcodeRow where
  mnemonic    : String
  opcode      : BitVec 4
  operandBits : Nat

/-- The rows of R65's table; `opcodeTable_eq_map` ties them to the model's. -/
def opcodeRows : List OpcodeRow :=
  [⟨"BEGIN", 0x1#4, 3⟩, ⟨"GETBUF", 0x2#4, 0⟩, ⟨"SETPIX", 0x3#4, 18⟩, ⟨"CLEAR", 0x4#4, 0⟩, ⟨"SWAP", 0x5#4, 0⟩,
   ⟨"GETLVL", 0x6#4, 3⟩, ⟨"GETEDGE", 0x7#4, 3⟩, ⟨"GETTICKS", 0x8#4, 0⟩, ⟨"REFRESH", 0x9#4, 0⟩, ⟨"SETTEXT", 0xA#4, 8⟩,
   ⟨"APPTEXT", 0xB#4, 8⟩, ⟨"LDROW", 0xC#4, 4⟩, ⟨"STROW", 0xD#4, 20⟩]

/-- Match is the opcode over zeros, mask leaves out the operand bits. -/
theorem opcodeTable_eq_map : opcodeTable =
    opcodeRows.map fun row => (row.mnemonic, headerN row.opcode, BitVec.allOnes 32 <<< row.operandBits) := by decide

theorem and_mask_toNat (h : Word) (k : Nat) : (h &&& BitVec.allOnes 32 <<< k).toNat = h.toNat / 2 ^ k * 2 ^ k := by
  rw [← BitVec.shiftLeft_ushiftRight, BitVec.toNat_shiftLeft, BitVec.toNat_ushiftRight, Nat.shiftLeft_eq,
    Nat.shiftRight_eq_div_pow, Nat.mod_eq_of_lt ((Nat.div_mul_le_self _ _).trans_lt h.isLt)]

/-- Masking out k operand bits leaves an opcode over zeros exactly when the opcode is that one and the bits between it
and the operands are 0. -/
theorem and_mask_eq_headerN_iff (h : Word) (op : BitVec 4) {k : Nat} (hk : k ≤ 28) :
    h &&& BitVec.allOnes 32 <<< k = headerN op ↔ opField h = op ∧ h.extractLsb' k (28 - k) = 0#(28 - k) := by
  have hsplit : 2 ^ 28 = 2 ^ k * 2 ^ (28 - k) := by rw [← Nat.pow_add, Nat.add_sub_cancel' hk]
  have hop : h.toNat / 2 ^ 28 % 2 ^ 4 = h.toNat / 2 ^ k / 2 ^ (28 - k) := by
    rw [Nat.div_div_eq_div_mul, ← hsplit]
    omega
  have hunique := Nat.div_mod_unique (a := h.toNat / 2 ^ k) (c := 0) (d := op.toNat) (Nat.two_pow_pos (28 - k))
  rw [← BitVec.toNat_inj, and_mask_toNat, headerN_toNat, opField, field_eq_iff, field_eq_iff, hop,
    hsplit, BitVec.toNat_ofNat, Nat.zero_mod, hunique, Nat.zero_add, Nat.mul_left_comm, Nat.mul_comm _ (2 ^ k)]
  simp [eq_comm, Nat.mul_comm]

theorem exists_opcodeTable_iff (h : Word) (m : String) :
    (∃ row ∈ opcodeTable, row.1 = m ∧ h &&& row.2.2 = row.2.1) ↔
      ∃ row ∈ opcodeRows, opField h = row.opcode ∧
        h.extractLsb' row.operandBits (28 - row.operandBits) = 0#(28 - row.operandBits) ∧ row.mnemonic = m := by
  have hbits : ∀ row ∈ opcodeRows, row.operandBits ≤ 28 := by decide
  simp only [opcodeTable_eq_map, List.mem_map, exists_exists_and_eq_and]
  refine exists_congr fun row => and_congr_right fun hrow => ?_
  rw [and_mask_eq_headerN_iff h _ (hbits row hrow), and_comm, and_assoc]

/-- The format of each row checks that the bits between opcode and operands are 0. -/
theorem decodeHeader_selects_iff {row : OpcodeRow} (hrow : row ∈ opcodeRows) {h : Word} (hop : opField h = row.opcode)
    (m : String) : (∃ hd, decodeHeader h = .ok hd ∧ hd.mnemonic = m) ↔
      h.extractLsb' row.operandBits (28 - row.operandBits) = 0#(28 - row.operandBits) ∧ row.mnemonic = m := by
  simp only [opcodeRows, List.mem_cons, List.not_mem_nil, or_false] at hrow
  rcases hrow with rfl | rfl | rfl | rfl | rfl | rfl | rfl | rfl | rfl | rfl | rfl | rfl | rfl
  case inl =>
    cases ht : h.getLsbD 2 <;>
      simp [decodeHeader, hop, decodeM_eq_ok_iff, ht, -BitVec.getLsbD_eq_getElem, and_assoc,
        Header.mnemonic, Instr.mnemonic]
  all_goals
    simp [decodeHeader, hop, decodeN_eq_ok_iff, decodeP_eq_ok_iff, decodeB_eq_ok_iff, decodeA_eq_ok_iff,
      decodeW_eq_ok_iff, decodeT_eq_ok_iff, and_assoc, Header.mnemonic, Instr.mnemonic]

/-- The opcodes without a row, 0x0, 0xE and 0xF, are rejected (R70). -/
theorem exists_row_of_decodeHeader_ok {h : Word} {hd : Header} (hok : decodeHeader h = .ok hd) :
    ∃ row ∈ opcodeRows, opField h = row.opcode := by
  have hops : ∀ op : BitVec 4, (∃ row ∈ opcodeRows, op = row.opcode) ∨ op = 0x0#4 ∨ op = 0xE#4 ∨ op = 0xF#4 := by decide
  refine (hops (opField h)).resolve_right fun hop => ?_
  rcases hop with hop | hop | hop <;> simp [decodeHeader, hop] at hok

/-- Settles O4: the must-be-zero field that the format of each opcode checks is the one between opcode and operands. -/
theorem headerSelectsByMaskAndMatch : Obligations.HeaderSelectsByMaskAndMatch := by
  intro h m
  rw [exists_opcodeTable_iff]
  constructor
  · rintro ⟨hd, hok, hm⟩
    obtain ⟨row, hrow, hop⟩ := exists_row_of_decodeHeader_ok hok
    exact ⟨row, hrow, hop, (decodeHeader_selects_iff hrow hop m).mp ⟨hd, hok, hm⟩⟩
  · rintro ⟨row, hrow, hop, hselected⟩
    exact (decodeHeader_selects_iff hrow hop m).mpr hselected

/-! ## A header that is decoded is the encoder's (R63, R70) -/

/-- The header is the one word, or the first word, of what it selects. -/
def Header.Encodes (h : Word) : Header → Prop
  | .single i => i.wellFormed = true ∧ encode i = [h]
  | .table k startSched => h = headerM true startSched (backendBit k)
  | .text append len => h = headerT (if append then 0xB#4 else 0xA#4) len

@[simp] theorem backendBit_backendOfBit (k : Bool) : backendBit (backendOfBit k) = k := by cases k <;> rfl

theorem headerM_toNat (t s k : Bool) : (headerM t s k).toNat = 2 ^ 28 + t.toNat * 4 + s.toNat * 2 + k.toNat := by
  cases t <;> cases s <;> cases k <;> rfl

theorem toNat_getLsbD {n : Nat} (x : BitVec n) (i : Nat) : (x.getLsbD i).toNat = x.toNat / 2 ^ i % 2 := by
  rw [← BitVec.testBit_toNat, Nat.toNat_testBit]

/-- A header of format M is the one the encoder forms from its three bits. -/
theorem eq_headerM {h : Word} (hop : opField h = 0x1#4) (hz : h.extractLsb' 3 25 = 0#25) {t : Bool}
    (ht : h.getLsbD 2 = t) : h = headerM t (h.getLsbD 1) (h.getLsbD 0) := by
  have hop : h.toNat / 2 ^ 28 % 2 ^ 4 = 1 := (field_eq_iff ..).mp hop
  have hz : h.toNat / 2 ^ 3 % 2 ^ 25 = 0 := (field_eq_iff ..).mp hz
  apply BitVec.eq_of_toNat_eq
  rw [← ht, headerM_toNat, toNat_getLsbD, toNat_getLsbD, toNat_getLsbD]
  omega

/-- With the opcode fixed and every bit between it and the operands 0, a header has the number of the one the encoder
forms from its operand fields. -/
theorem decodeHeader_encodes {h : Word} {hd : Header} (hok : decodeHeader h = .ok hd) : hd.Encodes h := by
  unfold decodeHeader at hok
  split at hok
  case h_1 hop =>
    obtain ⟨hz, ⟨ht, rfl⟩ | ⟨ht, rfl⟩⟩ := decodeM_eq_ok_iff.mp hok <;>
      have heq := eq_headerM (BitVec.eq_of_toNat_eq hop) hz ht
    · rwa [Header.Encodes, backendBit_backendOfBit]
    · rw [Header.Encodes, encode, backendBit_backendOfBit, ← heq]
      exact ⟨rfl, rfl⟩
  case h_14 => cases hok
  all_goals
    rename_i hop
    rw [opField, field_toNat] at hop
    simp only [decodeN_eq_ok_iff, decodeP_eq_ok_iff, decodeB_eq_ok_iff, decodeA_eq_ok_iff, decodeW_eq_ok_iff,
      decodeT_eq_ok_iff, field_eq_iff, BitVec.toNat_ofNat] at hok
    obtain ⟨hz, rfl⟩ := hok
    simp only [Header.Encodes, Instr.wellFormed, encode, List.cons.injEq, and_true, true_and, if_true, Bool.false_eq_true,
      if_false]
    apply BitVec.eq_of_toNat_eq
    simp only [headerN_toNat, headerP_toNat, headerB_toNat, headerA_toNat, headerW_toNat, headerT_toNat, field_toNat,
      BitVec.toNat_ofNat]
    omega

/-! ## A payload that is read is the encoder's (R68, R70) -/

/-- A palette entry with a bit above 23 is no triplet. -/
theorem tripletOfWord_eq_none {w : Word} (hw : 2 ^ 24 ≤ w.toNat) : tripletOfWord w = none := by
  have hz : w.extractLsb' 24 8 ≠ 0#8 := fun hz => by
    have hz : w.toNat / 2 ^ 24 % 2 ^ 8 = 0 := (field_eq_iff ..).mp hz
    have := w.isLt
    omega
  rw [tripletOfWord, if_neg hz]

theorem eq_wordOfTriplet {w : Word} {t : Triplet} (h : tripletOfWord w = some t) : w = wordOfTriplet t := by
  have hw : w.toNat < 2 ^ 24 := Nat.lt_of_not_le fun hw => by simp [tripletOfWord_eq_none hw] at h
  unfold tripletOfWord at h
  split at h
  · cases h
    apply BitVec.eq_of_toNat_eq
    simp only [wordOfTriplet_toNat, field_toNat]
    omega
  · cases h

theorem tableOfPayload_eq_some {ws : List Word} {t : ColourTable} (h : tableOfPayload ws = some t) :
    ws = [wordOfTriplet t.t0, wordOfTriplet t.t1, wordOfTriplet t.t2, wordOfTriplet t.t3] := by
  unfold tableOfPayload at h
  split at h
  · split at h
    next h0 h1 h2 h3 =>
      cases h
      rw [eq_wordOfTriplet h0, eq_wordOfTriplet h1, eq_wordOfTriplet h2, eq_wordOfTriplet h3]
    next => cases h
  · cases h

theorem bytesOfWords_length (ws : List Word) : (bytesOfWords ws).length = 4 * ws.length := by
  induction ws with
  | nil => rfl
  | cons w ws ih =>
    simp only [bytesOfWords, bytesOfWord, List.length_append, List.length_cons, List.length_nil, ih]
    omega

/-- The words of a text of `len` bytes, the rest of the last word 0, are the encoder's words of that text. -/
theorem wordsOfText_take {ws : List Word} {len : Nat} (hlen : ws.length = (len + 3) / 4)
    (hz : ((bytesOfWords ws).drop len).all (fun b => b == 0#8) = true) :
    wordsOfText ((bytesOfWords ws).take len) = ws := by
  induction ws generalizing len with
  | nil => simp [bytesOfWords, wordsOfText]
  | cons w ws ih =>
    have hw := wordOfBytes_fields w
    simp only [List.length_cons] at hlen
    by_cases hfull : 4 ≤ len
    · obtain ⟨n, rfl⟩ := Nat.exists_eq_add_of_le' hfull
      have hws : wordsOfText ((bytesOfWords ws).take n) = ws := ih (by omega) hz
      simp [bytesOfWords, bytesOfWord, wordsOfText, hws, hw]
    · obtain rfl : ws = [] := List.eq_nil_of_length_eq_zero (by omega)
      have hlen : len = 1 ∨ len = 2 ∨ len = 3 := by omega
      rcases hlen with rfl | rfl | rfl <;> simp [bytesOfWords, bytesOfWord] at hz <;>
        simpa [bytesOfWords, bytesOfWord, wordsOfText, hz] using hw

theorem textOfPayload_eq_some {ws : List Word} {len : Nat} {text : List Byte} (hlen : ws.length = (len + 3) / 4)
    (h : textOfPayload len ws = some text) : text.length = len ∧ wordsOfText text = ws := by
  unfold textOfPayload at h
  split at h
  next hz =>
    cases h
    refine ⟨?_, wordsOfText_take hlen hz⟩
    rw [List.length_take, bytesOfWords_length]
    omega
  next => cases h

/-- A command assembled from a decoded header and its payload is well formed, and they are its encoding. -/
theorem assemble_eq_some {h : Word} {hd : Header} {ws : List Word} {i : Instr} (hh : decodeHeader h = .ok hd)
    (hl : ws.length = hd.payloadWords) (ha : assemble hd ws = some i) : i.wellFormed = true ∧ encode i = h :: ws := by
  have henc := decodeHeader_encodes hh
  cases hd with
  | single j =>
    obtain rfl : j = i := Option.some.inj ha
    obtain rfl : ws = [] := List.eq_nil_of_length_eq_zero hl
    exact henc
  | table k startSched =>
    simp only [assemble] at ha
    split at ha
    next t ht =>
      cases ha
      rw [encode, tableOfPayload_eq_some ht, show h = _ from henc]
      exact ⟨rfl, rfl⟩
    next => cases ha
  | text append len =>
    simp only [assemble] at ha
    split at ha
    next text ht =>
      obtain ⟨hlen, hws⟩ := textOfPayload_eq_some hl ht
      have hfits : textEncodable text = true := by
        have := len.isLt
        simp [textEncodable]
        omega
      have hfield : BitVec.ofNat 8 text.length = len := by rw [hlen, BitVec.ofNat_toNat, BitVec.setWidth_eq]
      rw [show h = _ from henc, ← hws, ← hfield]
      cases append <;> cases ha <;> exact ⟨hfits, rfl⟩
    next => cases ha

/-- Settles O3: the header and the payload the decoder takes are the encoding of what it assembles from them. -/
theorem decodedWordsAreTheEncoding : Obligations.DecodedWordsAreTheEncoding := by
  intro ws i rest hdec
  cases ws with
  | nil => cases hdec
  | cons h ws =>
    obtain ⟨e, hh, he⟩ | ⟨hd, hh, ⟨hl, he⟩ | ⟨hl, ⟨j, ha, he⟩ | ⟨ha, he⟩⟩⟩ := decode_cons h ws <;> rw [he] at hdec <;>
      cases hdec
    obtain ⟨hwf, henc⟩ := assemble_eq_some hh (List.length_take_of_le hl) ha
    exact ⟨hwf, by rw [henc, List.cons_append, List.take_append_drop]⟩

/-! ## The encoder's words are decoded to their command (R63, R65, R67, R68) -/

theorem tableOfPayload_wordOfTriplet (t : ColourTable) :
    tableOfPayload [wordOfTriplet t.t0, wordOfTriplet t.t1, wordOfTriplet t.t2, wordOfTriplet t.t3] = some t := by
  simp [tableOfPayload, tripletOfWord_wordOfTriplet]

theorem decode_of_single {i : Instr} {h : Word} (he : encode i = [h]) (hh : decodeHeader h = .ok (.single i))
    (rest : List Word) : decode (encode i ++ rest) = .instr i rest := by
  rw [he]
  exact decode_header_payload (ws := []) hh rfl rfl

/-- A text's words, behind its header, are decoded to SETTEXT or APPTEXT. -/
theorem decode_of_text {text : List Byte} (hfits : textEncodable text = true) {h : Word} {append : Bool}
    (hh : decodeHeader h = .ok (.text append (BitVec.ofNat 8 text.length))) (rest : List Word) :
    decode (h :: (wordsOfText text ++ rest)) = .instr (if append then .apptext text else .settext text) rest := by
  have hlen := lengthField_toNat hfits
  refine decode_header_payload hh ?_ ?_
  · rw [Header.payloadWords, hlen, wordsOfText_length]
  · rw [assemble, hlen, textOfPayload_wordsOfText]

/-- Settles O2: every format's header is read back, and with it its payload. -/
theorem decodeReadsEncodedCommand : Obligations.DecodeReadsEncodedCommand := by
  intro i rest hwf
  cases i with
  | begin k startSched table =>
    cases table with
    | none => exact decode_of_single rfl (decodeHeader_headerM_none k startSched) rest
    | some t =>
      refine decode_header_payload (decodeHeader_headerM_table k startSched) rfl ?_
      rw [assemble, tableOfPayload_wordOfTriplet]
  | getbuf | clear | swap | getticks | refresh => exact decode_of_single rfl (by decide) rest
  | setpix x y c => exact decode_of_single rfl (decodeHeader_headerP c y x) rest
  | getlvl b => exact decode_of_single rfl (decodeHeader_getlvl b) rest
  | getedge b => exact decode_of_single rfl (decodeHeader_getedge b) rest
  | settext text => exact decode_of_text hwf (decodeHeader_settext _) rest
  | apptext text => exact decode_of_text hwf (decodeHeader_apptext _) rest
  | ldrow a => exact decode_of_single rfl (decodeHeader_headerA a) rest
  | strow a d => exact decode_of_single rfl (decodeHeader_headerW a d) rest

/-- Settles O1: each word sequence is computed. -/
theorem specWordsDecode : Obligations.SpecWordsDecode := by
  unfold Obligations.SpecWordsDecode
  decide

/-! ## The payload count (R67) -/

/-- The number of payload words, from the header alone: by T behind opcode 1, by L behind opcodes 10 and 11. -/
def payloadCount (h : Word) : Nat :=
  if h.toNat / 2 ^ 28 = 1 then (if h.getLsbD 2 then 4 else 0)
  else if h.toNat / 2 ^ 28 = 10 ∨ h.toNat / 2 ^ 28 = 11 then (h.toNat % 256 + 3) / 4 else 0

theorem payloadCount_headerM (t s k : Bool) : payloadCount (headerM t s k) = if t then 4 else 0 := by
  cases t <;> cases s <;> cases k <;> decide

theorem payloadCount_headerT {op : BitVec 4} (hop : op = 0xA#4 ∨ op = 0xB#4) {text : List Byte}
    (hfits : textEncodable text = true) :
    payloadCount (headerT op (BitVec.ofNat 8 text.length)) = (wordsOfText text).length := by
  have hlen := lengthField_toNat hfits
  have hn := headerT_toNat op (BitVec.ofNat 8 text.length)
  have hlt := (BitVec.ofNat 8 text.length).isLt
  rw [hlen] at hn hlt
  have hop : op.toNat = 10 ∨ op.toNat = 11 := hop.imp (congrArg BitVec.toNat) (congrArg BitVec.toNat)
  rw [wordsOfText_length, payloadCount, if_neg (by omega), if_pos (by omega)]
  omega

theorem payloadCount_eq_zero {h : Word} (hop : h.toNat / 2 ^ 28 ≠ 1 ∧ h.toNat / 2 ^ 28 ≠ 10 ∧ h.toNat / 2 ^ 28 ≠ 11) :
    payloadCount h = 0 := by
  rw [payloadCount, if_neg (by omega), if_neg (by omega)]

/-- The encoder puts as many payload words behind a header as the header calls for. -/
theorem encode_payloadCount {i : Instr} (hwf : i.wellFormed = true) :
    ∃ h ws, encode i = h :: ws ∧ payloadCount h = ws.length := by
  cases i with
  | begin k startSched table => cases table <;> exact ⟨_, _, rfl, payloadCount_headerM _ _ _⟩
  | settext text => exact ⟨_, _, rfl, payloadCount_headerT (.inl rfl) hwf⟩
  | apptext text => exact ⟨_, _, rfl, payloadCount_headerT (.inr rfl) hwf⟩
  | getbuf | clear | swap | getticks | refresh => exact ⟨_, _, rfl, by decide⟩
  | setpix x y c => exact ⟨_, _, rfl, payloadCount_eq_zero (by rw [headerP_toNat]; omega)⟩
  | getlvl b => exact ⟨_, _, rfl, payloadCount_eq_zero (by rw [headerB_toNat, BitVec.toNat_ofNat]; omega)⟩
  | getedge b => exact ⟨_, _, rfl, payloadCount_eq_zero (by rw [headerB_toNat, BitVec.toNat_ofNat]; omega)⟩
  | ldrow a => exact ⟨_, _, rfl, payloadCount_eq_zero (by rw [headerA_toNat]; omega)⟩
  | strow a d => exact ⟨_, _, rfl, payloadCount_eq_zero (by rw [headerW_toNat]; omega)⟩

/-- Settles O5: the words behind the header are its payload, of the header's count, and what the decoder leaves. -/
theorem payloadCountFollowsHeader : Obligations.PayloadCountFollowsHeader := by
  intro h rest rest' i hdec
  obtain ⟨hwf, hwords⟩ := decodedWordsAreTheEncoding _ _ _ hdec
  obtain ⟨h', ws, henc, hcount⟩ := encode_payloadCount hwf
  rw [henc, List.cons_append] at hwords
  obtain ⟨rfl, rfl⟩ := List.cons.inj hwords
  exact ⟨payloadCount h, rfl, by simp [hcount], by simp [hcount]⟩

/-! ## Reserved words are rejected (R68, R70) -/

/-- A header with its whole payload, where the payload has a bit set that must be 0. -/
theorem decode_of_assemble_none {h : Word} {hd : Header} {ws : List Word} (rest : List Word)
    (hh : decodeHeader h = .ok hd) (hl : ws.length = hd.payloadWords) (ha : assemble hd ws = none) :
    decode (h :: (ws ++ rest)) = .rejected .payloadMustBeZero := by
  simp [decode, hh, ← hl, ha]

theorem decode_of_no_row {h : Word} (hno : ∀ row ∈ opcodeTable, h &&& row.2.2 ≠ row.2.1) (rest : List Word) :
    ∃ e, decode (h :: rest) = .rejected e := by
  obtain ⟨e, _, he⟩ | ⟨hd, hh, _⟩ := decode_cons h rest
  · exact ⟨e, he⟩
  · obtain ⟨row, hrow, _, hmatch⟩ := (headerSelectsByMaskAndMatch h hd.mnemonic).mp ⟨hd, hh, rfl⟩
    exact absurd hmatch (hno row hrow)

/-- A palette payload with a bit above 23 set in one of its words. -/
theorem tableOfPayload_eq_none {w0 w1 w2 w3 : Word}
    (hbig : 2 ^ 24 ≤ w0.toNat ∨ 2 ^ 24 ≤ w1.toNat ∨ 2 ^ 24 ≤ w2.toNat ∨ 2 ^ 24 ≤ w3.toNat) :
    tableOfPayload [w0, w1, w2, w3] = none := by
  rcases hbig with h | h | h | h <;> simp [tableOfPayload, tripletOfWord_eq_none h]

theorem decodeHeader_of_table {h : Word} (hm : h &&& 0xFFFFFFFC#32 = 0x10000004#32) :
    ∃ k startSched, decodeHeader h = .ok (.table k startSched) := by
  have hn : h.toNat / 2 ^ 2 * 2 ^ 2 = 0x10000004 := by
    rw [← and_mask_toNat, show BitVec.allOnes 32 <<< 2 = 0xFFFFFFFC#32 by decide, hm]
    rfl
  have hop : opField h = 0x1#4 := (field_eq_iff ..).mpr (by rw [BitVec.toNat_ofNat]; omega)
  have hz : h.extractLsb' 3 25 = 0#25 := (field_eq_iff ..).mpr (by rw [BitVec.toNat_ofNat]; omega)
  have ht : h.getLsbD 2 = true := Bool.toNat_eq_one.mp (by rw [toNat_getLsbD]; omega)
  refine ⟨backendOfBit (h.getLsbD 0), h.getLsbD 1, ?_⟩
  rw [← decodeHeader_headerM_table, backendBit_backendOfBit, ← eq_headerM hop hz ht]

theorem decodeHeader_of_text {h : Word} {append : Bool}
    (hm : h &&& 0xFFFFFF00#32 = headerN (if append then 0xB#4 else 0xA#4)) :
    decodeHeader h = .ok (.text append (h.extractLsb' 0 8)) := by
  obtain ⟨hop, hz⟩ := (and_mask_eq_headerN_iff h _ (k := 8) (by decide)).mp hm
  cases append <;> simp [decodeHeader, hop] <;> rw [decodeT_eq_ok_iff] <;> exact ⟨hz, rfl⟩

theorem bytesOfWords_append (ws vs : List Word) : bytesOfWords (ws ++ vs) = bytesOfWords ws ++ bytesOfWords vs := by
  induction ws with
  | nil => rfl
  | cons w ws ih => simp only [List.cons_append, bytesOfWords, ih, List.append_assoc]

/-- The last payload word has a bit set above its r text bytes. -/
theorem textOfPayload_eq_none {ws : List Word} {w : Word} {len r : Nat} (hlen : len = 4 * ws.length + r)
    (hr : 0 < r) (hr4 : r < 4) (hbig : 2 ^ (8 * r) ≤ w.toNat) : textOfPayload len (ws ++ [w]) = none := by
  have hunused : (bytesOfWords (ws ++ [w])).drop len = (bytesOfWord w).drop r := by
    rw [bytesOfWords_append, hlen, ← bytesOfWords_length, List.drop_length_add_append]
    simp [bytesOfWords]
  have hw := w.isLt
  rw [textOfPayload, hunused, if_neg]
  intro hz
  have hr : r = 1 ∨ r = 2 ∨ r = 3 := by omega
  rcases hr with rfl | rfl | rfl <;> simp [bytesOfWord, field_eq_iff] at hz <;> omega

end Sys2Proof

namespace Sys2Proof.Machine

/-! ## The command port (R60, R70) -/

theorem hostMove_of_rejected {s : State} {e : DecodeError} (hidle : s.hphase = .idle) (hdec : decode s.cmd = .rejected e)
    (req : Bool) : hostMove req s = .refused (.reservedWord e) := by
  simp [hostMove, hidle, acceptCommand, hdec]

/-- Settles O8: the presented words are decoded to their command, and it is the host's turn. -/
theorem presentedCommandRunsNext : Obligations.PresentedCommandRunsNext := by
  intro i s hwf
  have hdec : decode (presentWords (encode i) s).cmd = .instr i s.cmd := decodeReadsEncodedCommand i s.cmd hwf
  obtain ⟨hscheduled, _⟩ := stepRunsDecodedCommand _ i s.cmd rfl rfl hdec
  rw [hscheduled false s.turns rfl, Bool.false_and, mapNext_holdRequestIf_false]
  rfl

/-- Settles O6: the decoder rejects the words the block takes, whose header has no row, or whose palette or text payload has
a bit set that must be 0. -/
theorem reservedWordsAreRefused : Obligations.ReservedWordsAreRefused := by
  intro s req ts h rest hheld hidle hturn hcmd
  have hrefused {e : DecodeError} (hdec : decode (h :: rest) = .rejected e) : step s = .refused (.reservedWord e) := by
    rw [step_of_hostTurn (swapDue_of_idle hidle) hheld hturn]
    exact hostMove_of_rejected (s := { s with turns := ts }) hidle (hcmd ▸ hdec) req
  refine ⟨fun hno => ?header, fun hm w0 w1 w2 w3 more hrest hbig => ?table,
    fun hm ws w more hrest hlen hpart hbig => ?text⟩
  case header =>
    obtain ⟨e, he⟩ := decode_of_no_row hno rest
    exact ⟨e, hrefused he⟩
  case table =>
    obtain ⟨k, startSched, hh⟩ := decodeHeader_of_table hm
    apply hrefused
    rw [hrest]
    exact decode_of_assemble_none (ws := [w0, w1, w2, w3]) more hh rfl (by rw [assemble, tableOfPayload_eq_none hbig])
  case text =>
    obtain ⟨append, hh⟩ : ∃ append, decodeHeader h = .ok (.text append (h.extractLsb' 0 8)) :=
      hm.elim (fun hm => ⟨false, decodeHeader_of_text hm⟩) (fun hm => ⟨true, decodeHeader_of_text hm⟩)
    have hL : (h.extractLsb' 0 8).toNat = h.toNat % 256 := by rw [field_toNat]; omega
    apply hrefused
    rw [hrest, List.append_cons]
    refine decode_of_assemble_none more hh ?_ ?_
    · rw [Header.payloadWords, hL, List.length_append, List.length_singleton]
      omega
    · rw [assemble, hL, textOfPayload_eq_none hlen (by omega) (by omega) hbig]

end Sys2Proof.Machine
end

section
/-! The proofs of the statements on the Frame Store (40_frame_store.md): the cells SETPIX and CLEAR write, SWAP's critical
section, and its wait, which completes and meanwhile renders rows of the new front grid. -/

namespace Sys2Proof.Machine

/-! ## Words of the command port as numbers (R63) -/

theorem singleton_eq_ofNat {w : Word} {n : Nat} (h : w.toNat = n) : [w] = [BitVec.ofNat 32 n] := by
  rw [← h, BitVec.ofNat_toNat, BitVec.setWidth_eq]

/-! ## The back grid, and one cell of a row (R12, R14, R81) -/

/-- BACK = 1 - FRONT as the statements write it (R14). -/
theorem State.back_eq (s : State) : s.back = 1#1 - s.front := by
  unfold State.back
  generalize s.front = g
  revert g
  decide

/-- The mask of SETPIX is two ones (R81). -/
theorem getLsbD_cellMask (k : Nat) : (3#16).getLsbD k = decide (k < 2) := by
  have hmask : 3#16 = (BitVec.allOnes 2).setWidth 16 := rfl
  rw [hmask, BitVec.getLsbD_setWidth, BitVec.getLsbD_allOnes, ← Bool.decide_and, decide_eq_decide]
  omega

/-- SETPIX's row word, bit by bit. -/
theorem getLsbD_setCell (w : RowWord) (c : ColourIndex) (x : Nat) {j : Nat} (hj : j < 16) :
    (setCell w x c).getLsbD j = if 2 * x ≤ j ∧ j < 2 * x + 2 then c.getLsbD (j - 2 * x) else w.getLsbD j := by
  simp only [setCell, BitVec.getLsbD_or, BitVec.getLsbD_and, BitVec.getLsbD_not, BitVec.getLsbD_shiftLeft,
    BitVec.getLsbD_setWidth, getLsbD_cellMask]
  by_cases hlo : j < 2 * x
  · simp [hj, hlo, Nat.not_le.mpr hlo]
  · by_cases hhi : j < 2 * x + 2
    · have hbit : j - 2 * x < 2 ∧ j - 2 * x < 16 := by omega
      simp [hj, hlo, hhi, hbit, Nat.le_of_not_lt hlo, -BitVec.getLsbD_eq_getElem]
    · have hbit : ¬ j - 2 * x < 2 := by omega
      simp [hj, hlo, hhi, hbit, BitVec.getLsbD_of_ge c (j - 2 * x) (by omega)]

/-- Writing cell x of a row word changes that cell and no other (R81). -/
theorem cell_setCell (w : RowWord) (c : ColourIndex) {x col : Nat} (hcol : col < 8) :
    cell (setCell w x c) col = if col = x then c else cell w col := by
  apply BitVec.eq_of_getLsbD_eq
  intro i hi
  have hbit : (cell (setCell w x c) col).getLsbD i = (setCell w x c).getLsbD (2 * col + i) := by
    simp [cell, hi]
  rw [hbit, getLsbD_setCell w c x (by omega)]
  by_cases hx : col = x
  · subst hx
    rw [if_pos ⟨by omega, by omega⟩, if_pos rfl, Nat.add_sub_cancel_left]
  · have hother : ¬ (2 * x ≤ 2 * col + i ∧ 2 * col + i < 2 * x + 2) := by omega
    rw [if_neg hother, if_neg hx]
    simp [cell, hi]

theorem onGrid_iff (x y : Byte) :
    onGrid x y = true ↔ 0 ≤ x.toInt ∧ x.toInt < 8 ∧ 0 ≤ y.toInt ∧ y.toInt < 8 := decide_eq_true_iff

/-- A coordinate that is on the grid is the number of its field (R64). -/
theorem toInt_eq_toNat_of_coordinate {x : Byte} (h0 : 0 ≤ x.toInt) (h8 : x.toInt < 8) :
    x.toInt = (x.toNat : Int) ∧ x.toNat < 8 := by
  have hx := x.isLt
  rw [BitVec.toInt_eq_toNat_cond] at h0 h8 ⊢
  split at h0 <;> omega

/-- SETPIX on the grid writes one cell of one row of the back grid (R81). -/
theorem memRead_setPixel {x y : Byte} (h : onGrid x y = true) (c : ColourIndex) (s : State) (g : BitVec 1) (r : RowIndex) :
    memRead (setPixel x y c s) (rowAddr g r) =
      if g = s.back ∧ r = rowOf y then setCell (memRead s (rowAddr g r)) x.toNat c else memRead s (rowAddr g r) := by
  rw [setPixel, if_pos h, memRead_memWrite, backAddr]
  simp only [rowAddr_inj]
  split
  next he =>
    obtain ⟨rfl, rfl⟩ := he
    rfl
  next => rfl

/-- The row SETPIX writes, by its number. -/
theorem eq_rowOf_iff {y : Byte} (hy : y.toNat < 8) (r : RowIndex) : r = rowOf y ↔ r.toNat = y.toNat := by
  rw [eq_comm, rowOf, field_eq_iff]
  omega

/-- Settles O19: the row's address names the back grid and y, and within the row word only cell x is written. -/
theorem setpixWritesOneCell : Obligations.SetpixWritesOneCell := by
  intro x y c s hinit
  have hword : encode (.setpix x y c) =
      [BitVec.ofNat 32 (0x30000000 + c.toNat * 2 ^ 16 + y.toNat * 2 ^ 8 + x.toNat)] :=
    singleton_eq_ofNat (headerP_toNat c y x)
  refine ⟨hword, _, exec_setpix_iff.mpr ⟨hinit, rfl⟩, ?frame, fun hon g r col hcol => ?onGrid, fun hoff => ?offGrid⟩
  case frame =>
    obtain ⟨m, hm⟩ := setPixel_frame x y c s
    rw [hm]
  case onGrid =>
    have hgrid := (onGrid_iff x y).mpr hon
    obtain ⟨hx0, hx8, hy0, hy8⟩ := hon
    obtain ⟨hxi, hx⟩ := toInt_eq_toNat_of_coordinate hx0 hx8
    obtain ⟨hyi, hy⟩ := toInt_eq_toNat_of_coordinate hy0 hy8
    rw [memRead_setPixel hgrid, State.back_eq, hxi, hyi]
    simp only [eq_rowOf_iff hy, Nat.cast_inj]
    by_cases hrow : g = 1#1 - s.front ∧ r.toNat = y.toNat
    · rw [if_pos hrow, cell_setCell _ _ hcol]
      simp [hrow]
    · rw [if_neg hrow, if_neg fun h => hrow ⟨h.1, h.2.1⟩]
  case offGrid =>
    rw [setPixel, if_neg fun h => hoff ((onGrid_iff x y).mp h)]

/-! ## CLEAR, and the commands of one word address (R80, R82, R88, R89) -/

/-- Settles O20: the eight writes reach every row of the back grid and no other. -/
theorem clearZeroesBackGrid : Obligations.ClearZeroesBackGrid := by
  refine ⟨rfl, fun s hinit => ⟨_, exec_clear_iff.mpr ⟨hinit, rfl⟩, ?frame, fun g r => ?words⟩⟩
  case frame =>
    obtain ⟨m, hm⟩ := clearRows_frame rows s
    rw [hm]
  case words =>
    have hr : r ∈ rows := by
      revert r
      decide
    rw [memRead_clearRows, State.back_eq]
    simp only [hr, and_true]

/-- Settles O29: the law of the RAM, at any address. -/
theorem strowWritesOneWord : Obligations.StrowWritesOneWord := by
  intro a d s hinit
  have hword : encode (.strow a d) = [BitVec.ofNat 32 (0xD0000000 + a.toNat * 2 ^ 16 + d.toNat)] :=
    singleton_eq_ofNat (headerW_toNat a d)
  exact ⟨hword, _, exec_strow_iff.mpr ⟨hinit, rfl⟩, rfl, fun b => memRead_memWrite s a b d⟩

/-- The address of row 0 of a grid is 8 times its number (R80). -/
theorem rowAddr_zero_word (g : BitVec 1) : (rowAddr (~~~g) 0#3).setWidth 32 = BitVec.ofNat 32 (8 * (1 - g.toNat)) := by
  revert g
  decide

/-- Settles O18: the response is the address of the back grid's row 0. -/
theorem getbufRespondsBackBase : Obligations.GetbufRespondsBackBase := by
  refine ⟨rfl, fun s hinit => exec_getbuf_iff.mpr ⟨hinit, ?_⟩⟩
  rw [backAddr, State.back, rowAddr_zero_word]
  rfl

/-- Settles O28: the response is the addressed word with zeros above it. -/
theorem ldrowRespondsWord : Obligations.LdrowRespondsWord := by
  intro a s hinit
  have hword : encode (.ldrow a) = [BitVec.ofNat 32 (0xC0000000 + a.toNat)] :=
    singleton_eq_ofNat (headerA_toNat a)
  exact ⟨hword, exec_ldrow_iff.mpr ⟨hinit, by rw [respond, BitVec.ofNat_toNat]⟩⟩

/-! ## SWAP's critical section (R83 to R86) -/

/-- Settles O21: the overlay is redrawn, and TEXT_SHADOW changes, exactly where the panel's text differs. -/
theorem swapCriticalSectionEffects : Obligations.SwapCriticalSectionEffects := by
  refine ⟨rfl, fun s hinit => exec_swap_iff.mpr ⟨hinit, ?_⟩⟩
  obtain ⟨shadow, es, he, ⟨rfl, rfl, hsame⟩ | ⟨hb, hne, rfl, rfl⟩⟩ := swap_frame s
  · have hkept : ¬ (s.backend = .fb ∧ s.textCur ≠ s.textShadow) := fun h => h.2 (hsame h.1)
    have hshadow : (if s.backend = .fb then s.textCur else s.textShadow) = s.textShadow := by
      split
      next hb => exact hsame hb
      next => rfl
    rw [he, if_neg hkept, hshadow, List.append_nil, State.back_eq]
    rfl
  · have hredrawn : s.backend = .fb ∧ s.textCur ≠ s.textShadow := ⟨hb, hne⟩
    rw [he, if_pos hredrawn, if_pos hb, State.back_eq]
    rfl

/-- The next state of SWAP, in the parts that the statements on several commands need. -/
theorem exec_swap_next {s : State} (hinit : s.init = true) :
    ∃ t, exec .swap s = .next t ∧ t.front = 1#1 - s.front ∧ t.init = true ∧ ∀ a, memRead t a = memRead s a := by
  obtain ⟨_, heffects⟩ := swapCriticalSectionEffects
  exact ⟨_, heffects s hinit, rfl, hinit, fun _ => rfl⟩

/-- 1 - g is the number of the other one of the two grids (R14). -/
theorem grid_back_back : ∀ g : BitVec 1, 1#1 - g ≠ g ∧ 1#1 - (1#1 - g) = g := by decide

/-- Settles O52: the number of the front grid is exchanged twice, and SWAP writes no grid word. -/
theorem twoSwapsRestoreRoles : Obligations.TwoSwapsRestoreRoles := by
  intro s hinit
  obtain ⟨t, ht, htf, hti, htm⟩ := exec_swap_next hinit
  obtain ⟨u, hu, huf, _, hum⟩ := exec_swap_next hti
  refine ⟨t, u, ht, hu, ?_, ?_, fun a => ⟨htm a, (hum a).trans (htm a)⟩⟩
  · rw [htf]
    exact (grid_back_back s.front).1
  · rw [huf, htf]
    exact (grid_back_back s.front).2

/-- Settles O53: CLEAR and SETPIX draw the picture in the back grid, which SWAP makes the front grid. -/
theorem drawnPixelIsInFrontAfterSwap : Obligations.DrawnPixelIsInFrontAfterSwap := by
  intro s hinit
  obtain ⟨_, hclear⟩ := clearZeroesBackGrid
  obtain ⟨t, ht, hts, htm⟩ := hclear s hinit
  have htf : t.front = s.front := (congrArg State.front hts :)
  have hti : t.init = true := (congrArg State.init hts :).trans hinit
  obtain ⟨_, u, hu, hut, hum, _⟩ := setpixWritesOneCell 0#8 0#8 1#2 t hti
  have huf : u.front = s.front := (congrArg State.front hut :).trans htf
  have hui : u.init = true := (congrArg State.init hut :).trans hti
  obtain ⟨v, hv, hvf, _, hvm⟩ := exec_swap_next hui
  refine ⟨t, u, v, ht, hu, hv, fun r c hc => ?front, fun r => ?back⟩
  case front =>
    have hrow : memRead t (rowAddr (1#1 - s.front) r) = 0#16 := by rw [htm, if_pos rfl]
    have hblank : cell 0#16 c = 0#2 := by simp [cell]
    have hon : 0 ≤ (0#8).toInt ∧ (0#8).toInt < 8 ∧ 0 ≤ (0#8).toInt ∧ (0#8).toInt < 8 := by decide
    rw [hvm, hvf, huf, hum hon _ r c hc, htf, hrow, hblank]
    simp [BitVec.toNat_eq]
  case back =>
    rw [hvm, hvf, huf, (grid_back_back s.front).2, ← htf, exec_keeps_front_grid hu rfl r, htf,
      exec_keeps_front_grid ht rfl r]

/-! ## SWAP's wait (R87) -/

theorem hostMove_of_waiting (req : Bool) {s : State} (hwait : s.hphase = .swapWait) : hostMove req s = .next s := by
  simp [hostMove, hwait]

theorem step_completes {s : State} (hdue : swapDue s = true) : step s = .next (completeSwap s) := by
  simp [step, takeTurn, hdue]

/-- Settles O9: completion is the step's first choice, and the waiting host's move is idle. -/
theorem swapCompletesAtTwoTicks : Obligations.SwapCompletesAtTwoTicks := by
  intro s hwait
  refine ⟨fun hticks => ?due, fun hticks hheld req ts hturn => ?early⟩
  case due => exact step_completes ((swapDue_iff s).mpr ⟨hwait, hticks⟩)
  case early =>
    have hdue : swapDue s = false := by simp [Bool.eq_false_iff, swapDue_iff, hticks]
    rw [step_of_hostTurn hdue hheld hturn]
    exact hostMove_of_waiting (s := { s with turns := ts }) req hwait

/-- A bound on the steps before a waiting SWAP is due: the schedule's entries and the ticks still missing. -/
def swapWaitBound (s : State) : Nat := s.turns.length + (2 - s.ticks.toNat)

/-- Using up an entry of the schedule brings the completion nearer. -/
theorem swapWaitBound_turn_lt {s : State} {turn : Turn} {ts : List Turn} (h : s.turns = turn :: ts) :
    swapWaitBound { s with turns := ts } < swapWaitBound s := by
  simp [swapWaitBound, h]

theorem tick_tickSource (req : Bool) (s : State) : (tick req s).tickSource = s.tickSource := by
  obtain ⟨p, es, tp, ps, n, e, _⟩ := tick_frame req s
  rw [e]
  rfl

/-- A TICK of the wait, which finds TICKS below 2, leaves the host waiting and brings the completion nearer. -/
theorem tick_of_waiting (req : Bool) {s : State} (hwait : s.hphase = .swapWait) (hsource : s.tickSource = .keepsTicking)
    (hticks : s.ticks.toNat < 2) :
    (tick req s).hphase = .swapWait ∧ (tick req s).tickSource = .keepsTicking ∧
      swapWaitBound (tick req s) < swapWaitBound s := by
  have hnext : (s.ticks + 1#32).toNat = s.ticks.toNat + 1 := by
    rw [BitVec.toNat_add, BitVec.toNat_ofNat]
    omega
  refine ⟨(tick_hphase req s).trans hwait, (tick_tickSource req s).trans hsource, ?_⟩
  rw [swapWaitBound, swapWaitBound, tick_turns, tick_ticks, hnext]
  omega

/-- Between steps the host waits in SWAP, with a tick source that keeps ticking (R176). -/
structure Waiting (s : State) : Prop where
  inv    : Inv s
  waits  : s.hphase = .swapWait
  source : s.tickSource = .keepsTicking

/-- Each step of a wait that is not over goes on waiting, nearer to the completion: the timer runs, and its source ticks on
after the schedule's end. -/
theorem exists_step_of_waiting {s : State} (h : Waiting s) (hdue : swapDue s = false) :
    ∃ t, step s = .next t ∧ Waiting t ∧ swapWaitBound t < swapWaitBound s := by
  obtain ⟨hinv, hwait, hsource⟩ := h
  have hticks : s.ticks.toNat < 2 := Nat.lt_of_not_le fun h2 => by simp [(swapDue_iff s).mpr ⟨hwait, h2⟩] at hdue
  have henabled : tickEnabled s = true := by
    have hsched := hinv.waitScheduled hwait
    exact (tickEnabled_iff s).mpr ⟨hinv.schedBegun hsched, hsched, hinv.maskClear⟩
  suffices hnext : ∃ t, step s = .next t ∧ t.hphase = .swapWait ∧ t.tickSource = .keepsTicking ∧
      swapWaitBound t < swapWaitBound s by
    obtain ⟨t, ht, hw, hs, hlt⟩ := hnext
    exact ⟨t, ht, ⟨stepKeepsTheInvariant s t hinv ht, hw, hs⟩, hlt⟩
  obtain ⟨hd, _⟩ | ⟨_, _, hheld⟩ | ⟨_, _, req, ts, ht, hhost⟩ | ⟨_, _, req, ts, ht, htick⟩ | ⟨_, _, _, hdefault⟩ :=
    step_cases s
  · simp [hd] at hdue
  · exact ⟨_, hheld, tick_of_waiting _ (s := popHeldMark s) hwait hsource hticks⟩
  · rw [hostMove_of_waiting (s := { s with turns := ts }) req hwait] at hhost
    exact ⟨_, hhost, hwait, hsource, swapWaitBound_turn_lt ht⟩
  · rw [tickRequest, if_pos (by exact henabled)] at htick
    obtain ⟨hw, hs, hlt⟩ := tick_of_waiting req (s := { s with turns := ts }) hwait hsource hticks
    exact ⟨_, htick, hw, hs, hlt.trans (swapWaitBound_turn_lt ht)⟩
  · have hmove : defaultMove s = .next (tick false s) := by
      simp [defaultMove, hostReady, hwait, henabled, sourceTicks, hsource]
    exact ⟨_, hdefault.trans hmove, tick_of_waiting false hwait hsource hticks⟩

/-- A wait completes within any number of steps above its bound: the last one is the completion. -/
theorem swap_completes_of_waiting {n : Nat} {s : State} (h : Waiting s) (hn : swapWaitBound s < n) :
    ∃ k t, k ≤ n ∧ Host.Core.run core k s = .next t ∧ t.hphase = .idle := by
  induction n generalizing s with
  | zero => omega
  | succ n ih =>
    cases hdue : swapDue s with
    | true => exact ⟨1, completeSwap s, by omega, run_of_step 0 (step_completes hdue), rfl⟩
    | false =>
      obtain ⟨u, hu, hwaiting, hlt⟩ := exists_step_of_waiting h hdue
      obtain ⟨k, t, hk, hrun, hidle⟩ := ih hwaiting (by omega)
      exact ⟨k + 1, t, by omega, (run_of_step k hu).trans hrun, hidle⟩

/-- Settles O10: the schedule's entries and two ticks bound the steps that the wait has left. -/
theorem swapWaitEnds : Obligations.SwapWaitEnds := by
  intro s hinv hwait hsource
  exact swap_completes_of_waiting ⟨hinv, hwait, hsource⟩ (by rw [swapWaitBound]; omega)

/-! ## What the ticks of the wait render (R90, R134, R137) -/

/-- The render's pin sequence is R134's. -/
theorem rowSequence_eq (r : RowIndex) (w : RowWord) :
    rowSequence r w = (pinSequence (~~~w) (oneHot r)).map pinEvent := rfl

theorem SerialPort.driveAll_noLatch (p : SerialPort) (es : List (Line × Bool)) (h : ∀ e ∈ es, e.1 ≠ .latch) :
    (p.driveAll es).latch = p.latch := by
  induction es generalizing p with
  | nil => rfl
  | cons e es ih =>
    obtain ⟨line, v⟩ := e
    have hl : line ≠ .latch := h (line, v) (by simp)
    rw [SerialPort.driveAll, ih _ fun e he => h e (List.mem_cons_of_mem _ he)]
    cases line with
    | latch => exact absurd rfl hl
    | colData | colClk | rowData | rowClk => rfl

/-- The fixed sequence latches once, at its end: the chains are then what the latches hold after it (R134). -/
theorem latchTrace_pinSequence {p : SerialPort} (col : BitVec 16) (row : BitVec 8) (h : p.quiet = true) :
    latchTrace p ((pinSequence col row).map pinEvent) = [.latched row col] := by
  obtain ⟨_, _, hlatch⟩ := (SerialPort.quiet_iff p).mp h
  have hbits : ∀ e ∈ colBits.flatMap (colBitPins col) ++ rowBits.flatMap (rowBitPins row), e.1 ≠ Line.latch := by
    simp [colBits, rowBits, colBitPins, rowBitPins]
  have hall := SerialPort.driveAll_pinSequence p col row h
  rw [pinSequence, SerialPort.driveAll_append] at hall
  rw [pinSequence, List.map_append, latchTrace_append, latchTrace_noLatch p _ hbits, List.nil_append]
  have hlow := (SerialPort.driveAll_noLatch p _ hbits).trans hlatch
  generalize p.driveAll (colBits.flatMap (colBitPins col) ++ rowBits.flatMap (rowBitPins row)) = q at hall hlow ⊢
  rw [SerialPort.driveAll_latchPulse q hlow, SerialPort.mk.injEq] at hall
  simp [latchTrace, pinEvent, hlow, hall]

/-- What a TICK shows is the render of row SCAN (R115). -/
theorem tick_display (req : Bool) (s : State) :
    ∃ ps n, (tick req s).out = (renderRow s.scan { countTick s with tpend := false, pinDraws := ps, draws := n }).out ∧
      (tick req s).sr = (renderRow s.scan { countTick s with tpend := false, pinDraws := ps, draws := n }).sr := by
  obtain ⟨ps, n, hpop⟩ := popPins_eq { s with tpend := false }
  rw [tick, hpop, holdRequestIf_eq_or]
  exact ⟨ps, n, rfl, rfl⟩

section
variable (req : Bool) {s : State}

/-- On the shift-register backend a TICK adds R134's events for row SCAN of the front grid. -/
theorem tick_out_of_sr (h : s.backend = .sr) :
    (tick req s).out = s.out ++ rowSequence s.scan (memRead s (rowAddr s.front s.scan)) := by
  obtain ⟨ps, n, hout, _⟩ := tick_display req s
  rw [hout]
  simp only [renderRow, countTick_backend, h]
  rfl

/-- On the framebuffer backend a TICK adds R137's rectangles for row SCAN of the front grid. -/
theorem tick_display_of_fb (h : s.backend = .fb) :
    (tick req s).out = s.out ++ rowRectangles s.params s.lut s.scan (memRead s (rowAddr s.front s.scan)) ∧
      (tick req s).sr = s.sr := by
  obtain ⟨ps, n, hout, hsr⟩ := tick_display req s
  rw [hout, hsr]
  simp only [renderRow, countTick_backend, h]
  exact ⟨rfl, rfl⟩

end

/-- What a second TICK reads beside TICKS is as the first found it, SCAN being one further (R115). -/
theorem tick_keeps_picture (req : Bool) (s : State) :
    (tick req s).scan = s.scan + 1#3 ∧ (tick req s).front = s.front ∧ (tick req s).backend = s.backend ∧
      (tick req s).params = s.params ∧ (tick req s).lut = s.lut ∧ ∀ a, memRead (tick req s) a = memRead s a := by
  obtain ⟨p, es, tp, ps, n, e, _⟩ := tick_frame req s
  rw [e]
  exact ⟨rfl, rfl, rfl, rfl, rfl, fun _ => rfl⟩

section
variable (r1 r2 : Bool) {t : State}

theorem two_ticks_out_of_sr (h : t.backend = .sr) :
    (tick r2 (tick r1 t)).out = t.out ++ (rowSequence t.scan (memRead t (rowAddr t.front t.scan)) ++
      rowSequence (t.scan + 1#3) (memRead t (rowAddr t.front (t.scan + 1#3)))) := by
  obtain ⟨hscan, hfront, hbackend, _, _, hmem⟩ := tick_keeps_picture r1 t
  rw [tick_out_of_sr r2 (hbackend.trans h), tick_out_of_sr r1 h, hscan, hfront, hmem, List.append_assoc]

theorem two_ticks_display_of_fb (h : t.backend = .fb) :
    (tick r2 (tick r1 t)).sr = t.sr ∧ (tick r2 (tick r1 t)).out = t.out ++
      rowRectangles t.params t.lut t.scan (memRead t (rowAddr t.front t.scan)) ++
      rowRectangles t.params t.lut (t.scan + 1#3) (memRead t (rowAddr t.front (t.scan + 1#3))) := by
  obtain ⟨hscan, hfront, hbackend, hparams, hlut, hmem⟩ := tick_keeps_picture r1 t
  obtain ⟨hout1, hsr1⟩ := tick_display_of_fb r1 h
  obtain ⟨hout2, hsr2⟩ := tick_display_of_fb r2 (hbackend.trans h)
  exact ⟨hsr2.trans hsr1, by rw [hout2, hout1, hscan, hfront, hparams, hlut, hmem]⟩

end

/-- Two rows driven one after the other are two latchings, as the first leaves the lines at rest (R134). -/
theorem latchTrace_two_rows {p : SerialPort} (h : p.quiet = true) (r q : RowIndex) (w v : RowWord) :
    latchTrace p (rowSequence r w ++ rowSequence q v) =
      [.latched (1#8 <<< r.toNat) (~~~w), .latched (1#8 <<< q.toNat) (~~~v)] := by
  rw [rowSequence_eq, rowSequence_eq, latchTrace_append, latchTrace_pinSequence _ _ h,
    latchTrace_pinSequence _ _ (SerialPort.quiet_driveAll_pinSequence _ _ h)]
  rfl

/-- Settles O55: SWAP leaves TICKS = 0 and SCAN as it was, so its two ticks render row SCAN and the next one of the grid it made
the front grid. -/
theorem swapWaitRendersTwoRows : Obligations.SwapWaitRendersTwoRows := by
  intro s r1 r2 hinit
  obtain ⟨_, heffects⟩ := swapCriticalSectionEffects
  refine ⟨_, heffects s hinit, ?ticks, fun hb => ?sr, fun hb => ?fb⟩
  case ticks =>
    rw [tick_ticks, tick_ticks]
    rfl
  case sr =>
    have hnoOverlay : ¬ (s.backend = .fb ∧ s.textCur ≠ s.textShadow) := by simp [hb]
    refine ⟨_, (two_ticks_out_of_sr r1 r2 (by exact hb)).trans ?_, rfl,
      fun hquiet => latchTrace_two_rows hquiet _ _ _ _⟩
    rw [if_neg hnoOverlay]
    rfl
  case fb => exact two_ticks_display_of_fb r1 r2 hb

end Sys2Proof.Machine
end

section
/-! The proofs of the statements on the Button Debounce Engine (41_button_debounce.md): the samples of the debounce rule, the
TICK's one sample, and the queries GETLVL and GETEDGE. -/

namespace Sys2Proof.Machine

/-! ## One sample, by its case (R102) -/

section
variable {level : Bool} {q : Button}

theorem debounce_of_ne (h : level ≠ q.raw) :
    debounce level q = { q with raw := level, cnt := 0#3, edge := level || q.edge } := by
  obtain ⟨_, e⟩ | ⟨hr, _⟩ | ⟨hr, _⟩ := debounce_cases level q
  · exact e
  · exact absurd hr h
  · exact absurd hr h

theorem debounce_of_eq_of_lt (h : level = q.raw) (hcnt : q.cnt.toNat < 3) :
    debounce level q = { q with cnt := q.cnt + 1#3 } := by
  obtain ⟨hr, _⟩ | ⟨_, hc, _⟩ | ⟨_, _, e⟩ := debounce_cases level q
  · exact absurd h hr
  · have : q.cnt.toNat = 3 := by bv_omega
    omega
  · exact e

theorem debounce_of_eq_of_three (h : level = q.raw) (hcnt : q.cnt.toNat = 3) :
    debounce level q = { q with cnt := 0#3, deb := level } := by
  obtain ⟨hr, _⟩ | ⟨_, _, e⟩ | ⟨_, hc, _⟩ := debounce_cases level q
  · exact absurd h hr
  · rw [e, ← h]
  · have : q.cnt + 1#3 = 4#3 := by bv_omega
    exact absurd this hc

/-! ## Repeated samples of one level (R103) -/

/-- After n + 1 samples of a new level, n of them have been counted as matching. -/
theorem debounce_iterate_succ (hraw : q.raw = !level) {n : Nat} (hn : n ≤ 3) :
    (debounce level)^[n + 1] q =
      { raw := level, cnt := BitVec.ofNat 3 n, deb := q.deb, edge := level || q.edge } := by
  induction n with
  | zero => exact debounce_of_ne (by simp [hraw])
  | succ n ih =>
    have hcnt : (BitVec.ofNat 3 n).toNat < 3 := by
      rw [BitVec.toNat_ofNat]
      omega
    rw [Function.iterate_succ_apply', ih (by omega), BitVec.ofNat_add]
    exact debounce_of_eq_of_lt rfl hcnt

end

/-- Settles O40: the first sample is the change of RAW, the next three count up to 3, and the fifth commits. -/
theorem fiveSamplesCommitALevel : Obligations.FiveSamplesCommitALevel := by
  intro q level hraw
  have hfifth : (debounce level)^[5] q = { raw := level, cnt := 0#3, deb := level, edge := level || q.edge } := by
    rw [Function.iterate_succ_apply', debounce_iterate_succ hraw (n := 3) (by omega)]
    exact debounce_of_eq_of_three rfl rfl
  refine ⟨fun n h1 h4 => ?below, by rw [hfifth], by rw [hfifth], fun n h1 h4 => ?reversal⟩
  all_goals obtain ⟨m, rfl⟩ := Nat.exists_eq_add_of_le' h1
  case below =>
    have hcnt : (BitVec.ofNat 3 m).toNat = m + 1 - 1 := by
      rw [BitVec.toNat_ofNat]
      omega
    rw [debounce_iterate_succ hraw (by omega)]
    exact ⟨rfl, hcnt, rfl, rfl⟩
  case reversal =>
    rw [debounce_iterate_succ hraw (by omega), debounce_of_ne (Bool.not_ne_self level)]

/-! ## The TICK's sample (R104, R115) -/

/-- What a TICK does to the buttons is one sample of the button BTNCUR names. -/
theorem tick_button (req : Bool) (s : State) (b : Fin 5) :
    (tick req s).button b =
      if b = s.btnCur then debounce (normalise s.params.btnActiveLow (pinsNow s) b) (s.button b) else s.button b := by
  obtain ⟨p, es, tp, ps, n, e, _⟩ := tick_frame req s
  rw [e]
  split
  next hb =>
    subst hb
    exact button_setButton_same _ _ _
  next hb => exact button_setButton_other s _ hb

/-- Settles O32: the table's rows are the cases of one sample. -/
theorem tickSamplesOneButton : Obligations.TickSamplesOneButton := by
  intro s req b level hlevel
  refine ⟨fun hb => by rw [tick_button, if_neg hb], fun hb => ?_⟩
  have hsample : (tick req s).button b = debounce level (s.button b) := by rw [tick_button, if_pos hb, hlevel, normalise]
  rw [hsample]
  refine ⟨fun hraw hcnt => ?counts, fun hraw hcnt => ?commits, fun hraw hpressed => ?presses,
    fun hraw hreleased => ?releases⟩
  case counts => exact debounce_of_eq_of_lt hraw.symm hcnt
  case commits => exact debounce_of_eq_of_three hraw.symm hcnt
  case presses =>
    rw [hpressed]
    exact debounce_of_ne (by simp [State.button, hraw])
  case releases =>
    rw [hreleased]
    exact debounce_of_ne (by simp [State.button, hraw])

/-! ## GETLVL and GETEDGE (R71, R105, R106) -/

/-- The word of a button query: the opcode and the button's number. -/
theorem headerB_ofNat_toNat (op : BitVec 4) (b : Fin 5) :
    (headerB op (BitVec.ofNat 3 b.val)).toNat = op.toNat * 2 ^ 28 + b.val := by
  rw [headerB_toNat, BitVec.toNat_ofNat]
  omega

theorem buttonOf_ofNat (b : Fin 5) : buttonOf (BitVec.ofNat 3 b.val) = some b := by
  revert b
  decide

theorem buttonOf_eq_none {b : BitVec 3} (h : 4 < b.toNat) : buttonOf b = none := dif_neg (by omega)

theorem ofBool_setWidth (v : Bool) : (BitVec.ofBool v).setWidth 32 = if v then 1#32 else 0#32 := by
  cases v <;> rfl

/-- A query after BEGIN, of either array, responds the button's bit and writes nothing else. -/
theorem respondButton_ofNat (arr : PerButton Bool) (b : Fin 5) (s : State) :
    respondButton arr (BitVec.ofNat 3 b.val) s =
      .next { s with resp := s.resp ++ [if arr.get b then 1#32 else 0#32] } := by
  rw [respondButton, buttonOf_ofNat, ← ofBool_setWidth]
  rfl

theorem respondButton_refused (arr : PerButton Bool) {b : BitVec 3} (h : 4 < b.toNat) (s : State) :
    respondButton arr b s = .refused .buttonIndex := by
  rw [respondButton, buttonOf_eq_none h]

/-- Settles O22: the array of the query is APP_LEVEL. -/
theorem getlvlRespondsLevel : Obligations.GetlvlRespondsLevel := by
  intro s hinit
  have hexec (b : BitVec 3) : exec (.getlvl b) s = respondButton s.appLevel b s := afterBegin_of_init hinit
  exact ⟨fun b => ⟨singleton_eq_ofNat (headerB_ofNat_toNat 0x6#4 b), (hexec _).trans (respondButton_ofNat _ b s)⟩,
    fun b hb => (hexec b).trans (respondButton_refused _ hb s)⟩

/-- Settles O23: the array of the query is APP_EDGE, and a response leaves it as it was. -/
theorem getedgeRespondsFlag : Obligations.GetedgeRespondsFlag := by
  intro s hinit
  have hexec (b : BitVec 3) : exec (.getedge b) s = respondButton s.appEdge b s := afterBegin_of_init hinit
  exact ⟨fun b => ⟨singleton_eq_ofNat (headerB_ofNat_toNat 0x7#4 b), (hexec _).trans (respondButton_ofNat _ b s)⟩,
    fun b hb => (hexec b).trans (respondButton_refused _ hb s)⟩

end Sys2Proof.Machine
end

section
/-! The proofs of the statements on the Refresh Scheduler (42_refresh_scheduler.md): the cursors of a TICK and of a run of
TICKs, the quiet of manual mode, the response of GETTICKS, and the rows that REFRESH drives. -/

namespace Sys2Proof.Machine

/-! ## The cursors (R115, R117) -/

theorem tick_scan_toNat (req : Bool) (s : State) : (tick req s).scan.toNat = (s.scan.toNat + 1) % 8 := by
  obtain ⟨hscan, _⟩ := tick_keeps_picture req s
  rw [hscan, BitVec.toNat_add]
  rfl

theorem tick_btnCur_val (req : Bool) (s : State) : (tick req s).btnCur.val = (s.btnCur.val + 1) % 5 := by
  obtain ⟨p, es, tp, ps, n, e, _⟩ := tick_frame req s
  rw [e]
  exact nextButton_val s.btnCur

/-- Settles O31: the frame of a TICK, and its two cursors as numbers. -/
theorem tickAdvancesCursors : Obligations.TickAdvancesCursors := by
  intro s req
  have hticks : (tick req s).ticks.toNat = (s.ticks.toNat + 1) % 2 ^ 32 := by
    rw [tick_ticks, BitVec.toNat_add]
    rfl
  refine ⟨hticks, tick_scan_toNat req s, tick_btnCur_val req s, tick_tpend req s, tick_eq req s, ?_⟩
  obtain ⟨p, es, tp, ps, n, e, _⟩ := tick_frame req s
  rw [e]
  rfl

/-- A run of TICKs, with any requests meanwhile, advances each cursor by the number of TICKs. -/
theorem foldl_tick_cursors (reqs : List Bool) (s : State) :
    (reqs.foldl (fun u req => tick req u) s).scan.toNat = (s.scan.toNat + reqs.length) % 8 ∧
    (reqs.foldl (fun u req => tick req u) s).btnCur.val = (s.btnCur.val + reqs.length) % 5 := by
  induction reqs generalizing s with
  | nil => exact ⟨(Nat.mod_eq_of_lt s.scan.isLt).symm, (Nat.mod_eq_of_lt s.btnCur.isLt).symm⟩
  | cons req reqs ih =>
    obtain ⟨hscan, hbtn⟩ := ih (tick req s)
    rw [tick_scan_toNat] at hscan
    rw [tick_btnCur_val] at hbtn
    simp only [List.foldl_cons, List.length_cons, hscan, hbtn]
    omega

/-- Settles O35: from 0 a cursor is the number of TICKs, and SWAP writes neither cursor. -/
theorem cursorsAfterTicks : Obligations.CursorsAfterTicks := by
  refine ⟨fun reqs s hscan hbtn => ?ticks, fun s t h => ?swap⟩
  case ticks => simpa [hscan, hbtn] using foldl_tick_cursors reqs s
  case swap =>
    obtain ⟨_, _, _, hbtn⟩ := exec_keeps_debounce h
    obtain ⟨hscan, _⟩ := exec_keeps_scan_sr h nofun
    exact ⟨hscan, hbtn⟩

/-! ## Manual mode (R119) -/

/-- The tick counts and all button state are at their reset values. -/
def TickStateAtReset (s : State) : Prop :=
  s.ticks = 0#32 ∧ s.lastTicks = 0#32 ∧ s.btnCur = 0 ∧ s.raw = .all false ∧ s.cnt = .all 0#3 ∧ s.deb = .all false ∧
    s.edge = .all false ∧ s.appLevel = .all false ∧ s.appEdge = .all false

/-- SWAP copies zeros over zeros, and no other command writes these registers. -/
theorem exec_keeps_tickStateAtReset {i : Instr} {s t : State} (h : exec i s = .next t) (hs : TickStateAtReset s) :
    TickStateAtReset t := by
  cases exec_effect h with
  | swap =>
    obtain ⟨hticks, _, hbtn, hraw, hcnt, hdeb, hedge, _, _⟩ := hs
    exact ⟨rfl, hticks, hbtn, hraw, hcnt, hdeb, rfl, hdeb, hedge⟩
  | begin | query | draw | refresh | text => exact hs

/-- Settles O45: with SCHED_EN = 0 no TICK is enabled, and every other kind of step keeps the zeros. -/
theorem manualModeStaysQuiet : Obligations.ManualModeStaysQuiet := by
  intro s t hmanual _ hstep
  refine step_relates (fun s t => s.schedEn = false → TickStateAtReset s → TickStateAtReset t)
    ?idle ?complete ?ticks ?command hstep hmanual
  case idle => exact fun _ _ _ _ _ hs => hs
  case complete => exact fun _ _ _ hs => hs
  case ticks =>
    intro s ts ms req _ henabled hmanual
    obtain ⟨_, hsched, _⟩ := (tickEnabled_iff s).mp henabled
    simp [hmanual] at hsched
  case command =>
    intro s ts i rest u b _ _ he _ hs
    have hu : TickStateAtReset u := exec_keeps_tickStateAtReset he hs
    obtain ⟨p, e, _⟩ := holdRequestIf_eq b u
    rw [e]
    exact hu

/-! ## GETTICKS (R120) -/

/-- Settles O24: the response is the captured count. -/
theorem getticksRespondsCapture : Obligations.GetticksRespondsCapture :=
  ⟨rfl, fun _ hinit => exec_getticks_iff.mpr ⟨hinit, rfl⟩⟩

/-! ## The events of a run of rows (R118, R134, R137) -/

/-- What the backend selected at BEGIN shows for row r of the front grid (R131). -/
def rowEvents (s : State) (r : RowIndex) : List Event :=
  match s.backend with
  | .sr => rowSequence r (memRead s (rowAddr s.front r))
  | .fb => rowRectangles s.params s.lut r (memRead s (rowAddr s.front r))

theorem rowEvents_of_sr {s : State} (h : s.backend = .sr) :
    rowEvents s = fun r => rowSequence r (memRead s (rowAddr s.front r)) := by
  funext r
  simp only [rowEvents, h]

theorem rowEvents_of_fb {s : State} (h : s.backend = .fb) :
    rowEvents s = fun r => rowRectangles s.params s.lut r (memRead s (rowAddr s.front r)) := by
  funext r
  simp only [rowEvents, h]

theorem renderRow_out (r : RowIndex) (s : State) : (renderRow r s).out = s.out ++ rowEvents s r := by
  cases h : s.backend with
  | sr =>
    rw [renderRow_of_sr r h, rowEvents_of_sr h]
    rfl
  | fb =>
    rw [renderRow_of_fb r h, rowEvents_of_fb h]
    rfl

/-- Rows are rendered from SCAN upwards, each as the first render found the front grid. -/
theorem renderNextN_out (n : Nat) (s : State) :
    (renderNextN n s).out = s.out ++ (List.iterate (· + 1#3) s.scan n).flatMap (rowEvents s) := by
  induction n generalizing s with
  | zero => exact (List.append_nil _).symm
  | succ n ih =>
    have hout : (renderNext s).out = s.out ++ rowEvents s s.scan := renderRow_out s.scan s
    have hkept : (renderNext s).scan = s.scan + 1#3 ∧ rowEvents (renderNext s) = rowEvents s := by
      obtain ⟨p, es, e⟩ := renderRow_frame s.scan s
      rw [renderNext, e]
      exact ⟨rfl, rfl⟩
    obtain ⟨hscan, hevents⟩ := hkept
    rw [renderNextN, ih, hout, hscan, hevents, List.iterate, List.flatMap_cons, List.append_assoc]

/-- The framebuffer backend drives no line (R137). -/
theorem renderNextN_sr_of_fb (n : Nat) {s : State} (h : s.backend = .fb) : (renderNextN n s).sr = s.sr := by
  induction n generalizing s with
  | zero => rfl
  | succ n ih =>
    have hnext : renderNext s = advanceScan (renderRowFB s.scan (memRead s (frontAddr s s.scan)) s) := by
      rw [renderNext, renderRow_of_fb _ h]
    rw [renderNextN, hnext]
    exact ih h

/-! ## REFRESH (R118) -/

theorem holdAndBlank_of_sr {s : State} (h : s.backend = .sr) : holdAndBlank s = blankSR (emit [.hold] s) := by
  simp only [holdAndBlank, h]

theorem holdAndBlank_of_fb {s : State} (h : s.backend = .fb) : holdAndBlank s = s := by
  simp only [holdAndBlank, h]

/-- REFRESH's eight rows are the rows 0 to 7, whatever SCAN was. -/
theorem renderAllRows_out (s : State) :
    (renderNextN 8 { s with scan := 0#3 }).out = s.out ++ rows.flatMap (rowEvents s) :=
  renderNextN_out 8 { s with scan := 0#3 }

theorem renderNextN_backend (n : Nat) (s : State) : (renderNextN n s).backend = s.backend := by
  obtain ⟨p, es, e⟩ := renderNextN_frame n s
  rw [e]

section
variable {s : State}

theorem refreshAllRows_of_sr (h : s.backend = .sr) :
    refreshAllRows s = blankSR (emit [.hold] (renderNextN 8 { s with scan := 0#3 })) :=
  holdAndBlank_of_sr ((renderNextN_backend 8 _).trans h)

theorem refreshAllRows_of_fb (h : s.backend = .fb) : refreshAllRows s = renderNextN 8 { s with scan := 0#3 } :=
  holdAndBlank_of_fb ((renderNextN_backend 8 _).trans h)

theorem refreshAllRows_out_of_sr (h : s.backend = .sr) :
    (refreshAllRows s).out = s.out ++ ((rows.flatMap fun r => rowSequence r (memRead s (rowAddr s.front r))) ++
      .hold :: fixedSequence 0xFFFF#16 0x00#8) := by
  have hblank : (refreshAllRows s).out =
      (renderNextN 8 { s with scan := 0#3 }).out ++ [.hold] ++ fixedSequence 0xFFFF#16 0x00#8 := by
    rw [refreshAllRows_of_sr h]
    rfl
  rw [hblank, renderAllRows_out, rowEvents_of_sr h, List.append_assoc, List.append_assoc, List.singleton_append]

/-- The blank is the last sequence driven, so it is what chains and latches hold (R134, R136). -/
theorem refreshAllRows_sr_of_sr (h : s.backend = .sr) (hquiet : s.sr.quiet = true) :
    (refreshAllRows s).sr =
      { rowSr := 0x00#8
        colSr := 0xFFFF#16
        rowLatch := 0x00#8
        colLatch := 0xFFFF#16
        colData := true
        colClk := false
        rowData := false
        rowClk := false
        latch := false } := by
  rw [refreshAllRows_of_sr h]
  exact SerialPort.driveAll_pinSequence _ 0xFFFF#16 0x00#8 (renderNextN_quiet 8 (s := { s with scan := 0#3 }) hquiet)

end

/-- Rows driven one after the other are latched one after the other, and what follows them finds the lines at rest (R134). -/
theorem latchTrace_rows {rest : List Event} {views : List LatchView}
    (hrest : ∀ q : SerialPort, q.quiet = true → latchTrace q rest = views) (word : RowIndex → RowWord)
    (rs : List RowIndex) {p : SerialPort} (h : p.quiet = true) :
    latchTrace p ((rs.flatMap fun r => rowSequence r (word r)) ++ rest) =
      (rs.map fun r => .latched (1#8 <<< r.toNat) (~~~(word r))) ++ views := by
  induction rs generalizing p with
  | nil => exact hrest p h
  | cons r rs ih =>
    rw [List.flatMap_cons, List.append_assoc, rowSequence_eq, latchTrace_append, latchTrace_pinSequence _ _ h,
      ih (SerialPort.quiet_driveAll_pinSequence _ _ h)]
    rfl

/-- HOLD, then the blank's one latching (R118, R136). -/
theorem latchTrace_hold_blank {p : SerialPort} (h : p.quiet = true) :
    latchTrace p (.hold :: fixedSequence 0xFFFF#16 0x00#8) = [.hold, .latched 0x00#8 0xFFFF#16] :=
  congrArg (LatchView.hold :: ·) (latchTrace_pinSequence 0xFFFF#16 0x00#8 h)

theorem exec_refresh_refused {s : State} (hinit : s.init = true) (hsched : s.schedEn = true) :
    exec .refresh s = .refused .refreshWhileScheduled := by
  rw [exec, execRefresh, afterBegin_of_init hinit, if_pos hsched]

/-- Settles O25: the rows' events from the run of renders, the end of the sequence from the hold and the blank. -/
theorem refreshDrivesAllRows : Obligations.RefreshDrivesAllRows := by
  refine ⟨rfl, fun s hinit => ⟨exec_refresh_refused hinit, fun hmanual =>
    ⟨refreshAllRows s, exec_refresh_iff.mpr ⟨hinit, hmanual, rfl⟩, ?scan, ?frame, fun hb => ?fb, fun hb => ?sr⟩⟩⟩
  case scan | frame =>
    obtain ⟨p, es, e⟩ := refreshAllRows_frame s
    rw [e]
  case fb =>
    rw [refreshAllRows_of_fb hb, renderAllRows_out, rowEvents_of_fb hb]
    exact ⟨renderNextN_sr_of_fb 8 hb, rfl⟩
  case sr =>
    refine ⟨_, refreshAllRows_out_of_sr hb, rfl, fun hquiet => ?_⟩
    rw [refreshAllRows_sr_of_sr hb hquiet]
    exact ⟨rfl, rfl, rfl, rfl, rfl, latchTrace_rows (fun _ => latchTrace_hold_blank) _ rows hquiet⟩

end Sys2Proof.Machine
end

section
/-! The proofs of the statements on the Backend Renderer (43_backend_renderer.md): what a TICK renders on either backend, the
pin sequence as one loading of chains and latches, and the LEDs that a row render and the blank light. -/

namespace Sys2Proof.Machine

/-! ## The pin level refines the latch level (R132, R133, R134) -/

/-- Sixteen column bits and eight row bits of three line writes each, and the two of the LATCH pulse. -/
theorem pinSequence_length (col : BitVec 16) (row : BitVec 8) : (pinSequence col row).length = 74 := rfl

/-- Settles O37: chains and latches are loaded whatever they held, by 74 line writes. -/
theorem pinSequenceLoadsLatches : Obligations.PinSequenceLoadsLatches := by
  intro p col row hquiet
  exact ⟨pinSequence_length col row, SerialPort.driveAll_pinSequence p col row hquiet⟩

/-! ## What a TICK renders (R115, R131, R137) -/

theorem rowSequence_length (r : RowIndex) (w : RowWord) : (rowSequence r w).length = 74 := by
  rw [rowSequence_eq, List.length_map, pinSequence_length]

/-- On the shift-register backend a TICK drives R134's sequence for row SCAN of the front grid. -/
theorem tick_sr_of_sr (req : Bool) {s : State} (h : s.backend = .sr) :
    (tick req s).sr = s.sr.driveAll (pinSequence (~~~(memRead s (rowAddr s.front s.scan))) (oneHot s.scan)) := by
  obtain ⟨ps, n, _, hsr⟩ := tick_display req s
  rw [hsr, renderRow_of_sr _ (by exact h)]
  rfl

/-- Settles O33: the events are those of the row's pin sequence, which from lines at rest loads chains and latches and latches
once. -/
theorem tickLatchesScanRow : Obligations.TickLatchesScanRow := by
  intro s req hsr
  refine ⟨_, tick_out_of_sr req hsr, rfl, rowSequence_length _ _, fun hquiet => ?_⟩
  rw [tick_sr_of_sr req hsr, SerialPort.driveAll_pinSequence _ _ _ hquiet]
  exact ⟨rfl, rfl, rfl, rfl, rfl, latchTrace_pinSequence _ _ hquiet⟩

/-- Settles O34: the row's rectangles, with no serial line driven. -/
theorem tickFillsScanRow : Obligations.TickFillsScanRow := by
  intro s req hfb
  obtain ⟨hout, hlines⟩ := tick_display_of_fb req hfb
  exact ⟨hlines, hout⟩

/-! ## The LEDs (R35, R135, R136) -/

/-- Once a pin sequence has run from lines at rest, its own patterns say which LEDs are lit: the row lines are active-high, the
column lines active-low (R35). -/
theorem lit_driveAll_pinSequence {p : SerialPort} (hquiet : p.quiet = true) (col : BitVec 16) (row : BitVec 8)
    (r c k : Nat) :
    (p.driveAll (pinSequence col row)).lit r c k = (row.getLsbD r && !col.getLsbD (2 * c + k)) := by
  rw [SerialPort.driveAll_pinSequence p col row hquiet, SerialPort.lit]

/-- The one-hot row pattern selects its own row and no other (R132). -/
theorem getLsbD_oneHot (r : RowIndex) (row : Nat) : (oneHot r).getLsbD row = decide (row = r.toNat) := by
  have hr : r.toNat < 8 := r.isLt
  rw [oneHot, ← BitVec.twoPow_eq, BitVec.getLsbD_twoPow]
  simp [hr, eq_comm]

/-- Settles O38: the one-hot row selects the row, and the complement in the active-low column lines gives back the word's bit. -/
theorem litLedsAreTheRowBits : Obligations.LitLedsAreTheRowBits := by
  intro r w s hquiet row c k _ hc hk
  have hbit : 2 * c + k < 16 := by omega
  calc (renderRowSR r w s).sr.lit row c k
      = ((oneHot r).getLsbD row && !(~~~w).getLsbD (2 * c + k)) := lit_driveAll_pinSequence hquiet _ _ row c k
    _ = (decide (row = r.toNat) && w.getLsbD (2 * c + k)) := by simp [getLsbD_oneHot, hbit]

/-- Settles O39: the blank is the pin sequence of no row and no column. -/
theorem blankLightsNoLed : Obligations.BlankLightsNoLed := by
  intro s hquiet
  have hsr : (blankSR s).sr = _ := SerialPort.driveAll_pinSequence s.sr 0xFFFF#16 0x00#8 hquiet
  refine ⟨by rw [hsr], by rw [hsr], by rw [hsr], by rw [hsr], fun row c k => ?_⟩
  calc (blankSR s).sr.lit row c k
      = ((0x00#8).getLsbD row && !(0xFFFF#16).getLsbD (2 * c + k)) := lit_driveAll_pinSequence hquiet _ _ row c k
    _ = false := by rw [BitVec.getLsbD_zero, Bool.false_and]

end Sys2Proof.Machine
end

section
/-! The proofs of the statements on the Text Overlay Differ (44_text_overlay.md): what SETTEXT and APPTEXT store, that SWAP
draws a text once, and that the shift-register backend draws none. -/

namespace Sys2Proof.Machine

/-! ## SETTEXT and APPTEXT (R63, R67, R150, R151) -/

/-- The header of a text command, as opcode and length (R63). -/
theorem headerT_eq_ofNat (op : BitVec 4) {text : List Byte} (hfits : text.length ≤ 255) :
    headerT op (BitVec.ofNat 8 text.length) = BitVec.ofNat 32 (op.toNat * 2 ^ 28 + text.length) := by
  have hlen : (BitVec.ofNat 8 text.length).toNat = text.length := lengthField_toNat (by simpa [textEncodable] using hfits)
  calc headerT op (BitVec.ofNat 8 text.length)
      = BitVec.ofNat 32 (headerT op (BitVec.ofNat 8 text.length)).toNat := by rw [BitVec.ofNat_toNat, BitVec.setWidth_eq]
    _ = BitVec.ofNat 32 (op.toNat * 2 ^ 28 + text.length) := by rw [headerT_toNat, hlen]

section
variable (text : List Byte) {s : State} (hinit : s.init = true)
include hinit

theorem exec_settext_of_init :
    exec (.settext text) s =
      .next { s with textCur := if text.length ≤ s.params.textMax then text else s.textCur, imask := false } := by
  refine exec_settext_iff.mpr ⟨hinit, ?_⟩
  obtain ⟨cur, e, ⟨hle, rfl⟩ | ⟨hlt, rfl⟩⟩ := setText_frame text s
  · rw [e, if_pos hle]
  · rw [e, if_neg (Nat.not_le_of_lt hlt)]

theorem exec_apptext_of_init :
    exec (.apptext text) s =
      .next { s with
        textCur := if s.textCur.length + text.length ≤ s.params.textMax then s.textCur ++ text else s.textCur
        imask := false } := by
  refine exec_apptext_iff.mpr ⟨hinit, ?_⟩
  obtain ⟨cur, e, ⟨hle, rfl⟩ | ⟨hlt, rfl⟩⟩ := appendText_frame text s
  · rw [e, if_pos hle]
  · rw [e, if_neg (Nat.not_le_of_lt hlt)]

end

/-- Settles O26: one header with the length, the text's words behind it, and the store of the text that fits. -/
theorem settextStoresOrDrops : Obligations.SettextStoresOrDrops := fun text _ hinit =>
  ⟨fun hfits => ⟨wordsOfText text, congrArg (· :: wordsOfText text) (headerT_eq_ofNat 0xA#4 hfits), wordsOfText_length text⟩,
    exec_settext_of_init text hinit⟩

/-- Settles O27: as for SETTEXT, with the joint length deciding. -/
theorem apptextAppendsOrDrops : Obligations.ApptextAppendsOrDrops := fun text _ hinit =>
  ⟨fun hfits => ⟨wordsOfText text, congrArg (· :: wordsOfText text) (headerT_eq_ofNat 0xB#4 hfits), wordsOfText_length text⟩,
    exec_apptext_of_init text hinit⟩

/-! ## A text is drawn once (R152, R153) -/

/-- On the framebuffer backend SETTEXT of a text that fits and the next SWAP leave it in TEXT_SHADOW, drawn where it was not
there before. -/
theorem settext_swap_draws_change {text : List Byte} {s : State} (hinit : s.init = true) (hb : s.backend = .fb)
    (hfits : text.length ≤ s.params.textMax) :
    ∃ t u, exec (.settext text) s = .next t ∧ exec .swap t = .next u ∧
      u.init = true ∧ u.backend = .fb ∧ u.params = s.params ∧ u.textShadow = text ∧
      u.out = if text = s.textShadow then s.out else s.out ++ [.overlay text] := by
  obtain ⟨_, hswap⟩ := swapCriticalSectionEffects
  have hset : exec (.settext text) s = .next { s with textCur := text, imask := false } := by
    rw [exec_settext_of_init text hinit, if_pos hfits]
  refine ⟨_, _, hset, hswap _ hinit, hinit, hb, rfl, if_pos hb, ?_⟩
  simp [hb]

/-- Settles O54: the second time the text is TEXT_SHADOW already. -/
theorem sameTextIsDrawnOnce : Obligations.SameTextIsDrawnOnce := by
  intro text s hinit hb hfits
  obtain ⟨t, u, ht, hu, hinit', hb', hparams, hshadow, hout⟩ := settext_swap_draws_change hinit hb hfits
  obtain ⟨v, w, hv, hw, _, _, _, hshadow', hout'⟩ := settext_swap_draws_change hinit' hb' (hparams ▸ hfits)
  exact ⟨t, u, v, w, ht, hu, hv, hw, hout, by rw [hout', if_pos hshadow.symm], hshadow'⟩

/-! ## The shift-register backend draws no text (R139, R152) -/

/-- From s to t TEXT_SHADOW is kept, and no OVERLAY is emitted. -/
def DrawsNoText (s t : State) : Prop :=
  t.textShadow = s.textShadow ∧ ∃ es, t.out = s.out ++ es ∧ ∀ text, Event.overlay text ∉ es

theorem DrawsNoText.of_kept {s t : State} (hshadow : t.textShadow = s.textShadow) (hout : t.out = s.out) :
    DrawsNoText s t :=
  ⟨hshadow, [], by rw [hout, List.append_nil], fun _ => List.not_mem_nil⟩

/-- Driving a line emits a PIN event. -/
theorem overlay_not_mem_pins (text : List Byte) (pins : List (Line × Bool)) : Event.overlay text ∉ pins.map pinEvent := by
  simp [pinEvent]

theorem overlay_not_mem_rowSequence (text : List Byte) (r : RowIndex) (w : RowWord) :
    Event.overlay text ∉ rowSequence r w :=
  overlay_not_mem_pins text (pinSequence (~~~w) (oneHot r))

theorem overlay_not_mem_blank (text : List Byte) : Event.overlay text ∉ fixedSequence 0xFFFF#16 0x00#8 :=
  overlay_not_mem_pins text (pinSequence 0xFFFF#16 0x00#8)

/-- A TICK renders a row, and drives lines only. -/
theorem tick_drawsNoText (req : Bool) {s : State} (hb : s.backend = .sr) : DrawsNoText s (tick req s) := by
  refine ⟨?_, _, tick_out_of_sr req hb, fun text => overlay_not_mem_rowSequence text _ _⟩
  obtain ⟨p, es, tp, ps, n, e, _⟩ := tick_frame req s
  rw [e]
  rfl

/-- Two commands emit events: REFRESH drives lines and holds, and SWAP emits none on this backend. -/
theorem exec_drawsNoText {i : Instr} {s t : State} (h : exec i s = .next t) (hb : s.backend = .sr) : DrawsNoText s t := by
  by_cases hswap : i = .swap
  · subst hswap
    obtain ⟨hinit, _⟩ := exec_swap_iff.mp h
    obtain ⟨_, heffects⟩ := swapCriticalSectionEffects
    obtain rfl := Host.Outcome.next.inj ((heffects s hinit).symm.trans h)
    exact .of_kept (by simp [hb]) (by simp [hb])
  have hshadow : t.textShadow = s.textShadow := by
    obtain ⟨_, _, _, _, _, _, hshadow, _⟩ := exec_keeps_swapState h hswap
    exact hshadow
  by_cases hrefresh : i = .refresh
  · subst hrefresh
    obtain ⟨_, _, rfl⟩ := exec_refresh_iff.mp h
    refine ⟨hshadow, _, refreshAllRows_out_of_sr hb, fun text => ?_⟩
    simp [overlay_not_mem_rowSequence, overlay_not_mem_blank]
  · exact .of_kept hshadow (exec_keeps_out h hrefresh hswap)

/-- Settles O46: by the kinds of a step; only a TICK and a command emit events. -/
theorem shiftRegisterNeverDrawsText : Obligations.ShiftRegisterNeverDrawsText := by
  intro s t hb _ hstep
  refine step_relates (fun s t => s.backend = .sr → DrawsNoText s t) ?idle ?complete ?ticks ?command hstep hb
  case idle => exact fun _ _ _ _ _ => .of_kept rfl rfl
  case complete => exact fun _ _ _ => .of_kept rfl rfl
  case ticks => exact fun s ts ms req _ _ hb => tick_drawsNoText req (s := { s with turns := ts, heldMarks := ms }) hb
  case command =>
    intro s ts i rest u b _ _ he hb
    have hu : DrawsNoText { s with turns := ts, cmd := rest } u := exec_drawsNoText he hb
    obtain ⟨p, e, _⟩ := holdRequestIf_eq b u
    rw [e]
    exact hu

end Sys2Proof.Machine
end

section
/-! The proofs of the statements on initialisation (45_init.md): which command answers a next state in which states, what BEGIN
writes, its encoding, the 5-6-5 packing of its palette, and that before BEGIN no other step changes the block. -/

namespace Sys2Proof.Machine

/-! ## Which command runs where (R71, R118, R160, R170) -/

/-- The declared enumeration of the buttons is 0 to 4 (R71). -/
theorem exists_buttonOf_iff (b : BitVec 3) : (∃ n, buttonOf b = some n) ↔ b.toNat ≤ 4 := by
  revert b
  decide

theorem exists_exec_next_iff (i : Instr) (s : State) : (∃ t, exec i s = .next t) ↔ commandDefined i s = true := by
  cases i with
  | begin k en table => simp [exec_begin_iff, commandDefined]
  | getlvl b => simp [exec_getlvl_iff, commandDefined, ← exists_buttonOf_iff]
  | getedge b => simp [exec_getedge_iff, commandDefined, ← exists_buttonOf_iff]
  | refresh => simp [exec_refresh_iff, commandDefined]
  | getbuf | setpix | clear | swap | getticks | settext | apptext | ldrow | strow =>
    simp [exec_getbuf_iff, exec_setpix_iff, exec_clear_iff, exec_swap_iff, exec_getticks_iff, exec_settext_iff,
      exec_apptext_iff, exec_ldrow_iff, exec_strow_iff, commandDefined]

/-- There is no reason to fault, so an outcome that is no next state is a refusal (R170). -/
theorem exists_refused_of_ne_next {o : Host.Outcome State Fault Refusal} (h : ¬ ∃ t, o = .next t) :
    ∃ r, o = .refused r := by
  cases o with
  | next t => exact absurd ⟨t, rfl⟩ h
  | fault r => cases r
  | refused r => exact ⟨r, rfl⟩

/-- INIT = 1 is the first precondition of every command but BEGIN (R160). -/
theorem exec_refused_of_not_init {i : Instr} {s : State} (hinit : s.init = false)
    (hi : ∀ k en table, i ≠ .begin k en table) : exec i s = .refused .beforeBegin := by
  cases i with
  | begin k en table => exact absurd rfl (hi k en table)
  | getbuf | setpix | clear | swap | getlvl | getedge | getticks | refresh | settext | apptext | ldrow | strow =>
    apply afterBegin_of_not_init hinit

/-- Settles O30: a command that answers no next state can only be refused. -/
theorem commandRunsIffDefined : Obligations.CommandRunsIffDefined := by
  intro i s
  refine ⟨exists_exec_next_iff i s, fun hundefined => exists_refused_of_ne_next fun hnext => ?_, exec_refused_of_not_init⟩
  simp [(exists_exec_next_iff i s).mp hnext] at hundefined

/-! ## BEGIN (R63, R68, R160, R161) -/

/-- Format M with its three bits as masks over the opcode (R63). -/
theorem headerM_eq_or (t en : Bool) (k : Backend) :
    headerM t en (backendBit k) =
      0x10000000#32 ||| (if t then 4#32 else 0#32) ||| (if en then 2#32 else 0#32) ||| (if k = .fb then 1#32 else 0#32) := by
  cases t <;> cases en <;> cases k <;> rfl

theorem wordOfTriplet_eq_ofNat (t : Triplet) :
    wordOfTriplet t = BitVec.ofNat 32 (t.r.toNat * 2 ^ 16 + t.g.toNat * 2 ^ 8 + t.bl.toNat) := by
  rw [← wordOfTriplet_toNat, BitVec.ofNat_toNat, BitVec.setWidth_eq]

theorem exec_begin_refused {s : State} (hinit : s.init = true) (k : Backend) (en : Bool) (table : Option ColourTable) :
    exec (.begin k en table) s = .refused .secondBegin :=
  if_pos hinit

/-- Settles O16: the state's part is BEGIN's inversion with and without a table, the words' part one header and, with a table,
one word a triplet. -/
theorem beginSetsModeAndPalette : Obligations.BeginSetsModeAndPalette := by
  intro k en s
  refine ⟨fun hinit => ⟨exec_begin_iff.mpr ⟨hinit, rfl⟩, fun t => exec_begin_iff.mpr ⟨hinit, rfl⟩⟩,
    fun hinit table => exec_begin_refused hinit k en table, fun table => ?words⟩
  cases table with
  | none => exact congrArg (· :: []) (headerM_eq_or false en k)
  | some t =>
    simp only [encode, headerM_eq_or, wordOfTriplet_eq_ofNat]
    rfl

/-! ## PACK (R162) -/

/-- The three fields do not overlap: each lies below the next one's lowest bit. -/
theorem or_eq_add_of_fields {r g bl : Nat} (hg : g < 2 ^ 6) (hbl : bl < 2 ^ 5) :
    r <<< 11 ||| g <<< 5 ||| bl = r * 2048 + g * 32 + bl := by
  have hhigh : r <<< 11 ||| g <<< 5 = (r * 2 ^ 6 + g) <<< 5 := by
    rw [← Nat.shiftLeft_add_eq_or_of_lt (by rw [Nat.shiftLeft_eq]; omega)]
    simp only [Nat.shiftLeft_eq]
    omega
  rw [hhigh, ← Nat.shiftLeft_add_eq_or_of_lt hbl, Nat.shiftLeft_eq]
  omega

/-- Settles O17: the shifts are quotients, of 5, 6 and 5 bits, and the fields do not overlap. -/
theorem packIsRgb565 : Obligations.PackIsRgb565 := by
  intro t
  have hr := t.r.isLt
  have hg := t.g.isLt
  have hbl := t.bl.isLt
  have hred : ((t.r.setWidth 16 >>> 3) <<< 11).toNat = (t.r.toNat / 8) <<< 11 := by
    simp only [BitVec.toNat_shiftLeft, BitVec.toNat_ushiftRight, BitVec.toNat_setWidth, Nat.shiftRight_eq_div_pow,
      Nat.shiftLeft_eq]
    omega
  have hgreen : ((t.g.setWidth 16 >>> 2) <<< 5).toNat = (t.g.toNat / 4) <<< 5 := by
    simp only [BitVec.toNat_shiftLeft, BitVec.toNat_ushiftRight, BitVec.toNat_setWidth, Nat.shiftRight_eq_div_pow,
      Nat.shiftLeft_eq]
    omega
  have hblue : (t.bl.setWidth 16 >>> 3).toNat = t.bl.toNat / 8 := by
    simp only [BitVec.toNat_ushiftRight, BitVec.toNat_setWidth, Nat.shiftRight_eq_div_pow]
    omega
  rw [pack, BitVec.toNat_or, BitVec.toNat_or, hred, hgreen, hblue, or_eq_add_of_fields (by omega) (by omega)]

/-! ## Before BEGIN (R160, R191) -/

/-- The one command that runs before BEGIN is BEGIN, and it sets INIT (R160). -/
theorem exec_next_of_not_init {i : Instr} {s t : State} (h : exec i s = .next t) (hinit : s.init = false) :
    (∃ k en table, i = .begin k en table) ∧ t.init = true := by
  cases exec_effect h with
  | begin k en table hi => exact ⟨⟨k, en, table, hi⟩, rfl⟩
  | query _ _ hbegun | draw _ _ hbegun | swap _ _ _ hbegun | refresh _ _ _ hbegun | text _ _ hbegun =>
    simp [hinit] at hbegun

theorem timerRunning_of_not_init {s : State} (hinit : s.init = false) : timerRunning s = false := by
  simp [timerRunning, hinit]

/-- Settles O44: by the kinds of a step; the timer does not run before BEGIN, so no TICK is enabled and no request held. -/
theorem onlyBeginActsBeforeBegin : Obligations.OnlyBeginActsBeforeBegin := by
  intro s t hinit hstep
  refine step_relates (fun s t => s.init = false →
    (∃ k en table rest, decode s.cmd = .instr (.begin k en table) rest ∧ t.init = true) ∨
    { t with turns := s.turns } = { s with hphase := t.hphase } ∧ (s.hphase = .idle → t.hphase = .idle))
    ?idle ?complete ?ticks ?command hstep hinit
  case idle =>
    intro s ts b hb hinit
    obtain rfl : b = s.tpend := hb.resolve_right (by simp [timerRunning_of_not_init hinit])
    exact .inr ⟨rfl, id⟩
  case complete => exact fun s _ _ => .inr ⟨rfl, fun _ => rfl⟩
  case ticks =>
    intro s ts ms req _ henabled hinit
    obtain ⟨hbegun, _⟩ := (tickEnabled_iff s).mp henabled
    simp [hinit] at hbegun
  case command =>
    intro s ts i rest u b _ hdec he hinit
    obtain ⟨⟨k, en, table, rfl⟩, hu⟩ := exec_next_of_not_init he hinit
    obtain ⟨p, e, _⟩ := holdRequestIf_eq b u
    rw [e]
    exact .inl ⟨k, en, table, rest, hdec, hu⟩

end Sys2Proof.Machine
end

section
/-! The proofs of the statements on the tick event (60_exceptions.md): what becomes of a tick request, and that a held one is
served by the next step. -/

namespace Sys2Proof.Machine

/-! ## A scheduled tick request (R172, R173, R175) -/

theorem timerRunning_iff (s : State) : timerRunning s = true ↔ s.init = true ∧ s.schedEn = true := by
  simp [timerRunning]

theorem step_of_tickTurn {s : State} {req : Bool} {ts : List Turn} (hdue : swapDue s = false)
    (hheld : pendingServed s = false) (ht : s.turns = .tick req :: ts) :
    step s = .next (tickRequest req { s with turns := ts }) := by
  simp [step, takeTurn, hdue, hheld, ht]

theorem tickRequest_of_enabled (req : Bool) {s : State} (h : tickEnabled s = true) : tickRequest req s = tick req s := by
  rw [tickRequest, if_pos h]

theorem tickRequest_of_masked (req : Bool) {s : State} (hrun : timerRunning s = true) (hmask : s.imask = true) :
    tickRequest req s = { s with tpend := true } := by
  simp [tickRequest, tickEnabled, holdRequest, hrun, hmask]

theorem tickRequest_of_stopped (req : Bool) {s : State} (hrun : timerRunning s = false) : tickRequest req s = s := by
  simp [tickRequest, tickEnabled, holdRequest, hrun]

/-- Settles O13: the step is the request's arrival, whose outcome the timer and the mask decide. -/
theorem tickRequestOutcome : Obligations.TickRequestOutcome := by
  intro s req ts hdue hheld ht
  rw [step_of_tickTurn hdue hheld ht]
  refine ⟨fun henabled => ?runs, fun ⟨hinit, hsched, hmask⟩ => ?held, fun hstopped => ?none⟩
  case runs => rw [tickRequest_of_enabled req ((tickEnabled_iff { s with turns := ts }).mpr henabled)]
  case held =>
    rw [tickRequest_of_masked (s := { s with turns := ts }) req ((timerRunning_iff _).mpr ⟨hinit, hsched⟩) hmask]
  case none =>
    have hrun : timerRunning { s with turns := ts } = false := by
      rcases hstopped with h | h <;> simp [timerRunning, h]
    rw [tickRequest_of_stopped req hrun]

/-! ## A held tick request (R34, R173) -/

/-- The mark of a held TICK is taken before the handler runs; the handler takes none. -/
theorem tick_heldMarks (req : Bool) (s : State) : (tick req s).heldMarks = s.heldMarks := by
  obtain ⟨p, es, tp, ps, n, e, _⟩ := tick_frame req s
  rw [e]
  rfl

/-- Settles O14: the request is served as a TICK with the environment's mark, and the fields named are those of a TICK. -/
theorem heldRequestIsServedNext : Obligations.HeldRequestIsServedNext := by
  intro s hdue hpend ⟨hinit, hsched, hmask⟩
  have hserved : pendingServed s = true := by
    rw [pendingServed, hpend, Bool.true_and]
    exact (tickEnabled_iff s).mpr ⟨hinit, hsched, hmask⟩
  have hstep : step s = .next (tick (s.heldMarks.headD false) { s with heldMarks := s.heldMarks.tail }) :=
    step_serves_held hdue hserved
  refine ⟨hstep, fun t ht => ?_⟩
  obtain rfl : tick (s.heldMarks.headD false) { s with heldMarks := s.heldMarks.tail } = t := by
    simpa using hstep.symm.trans ht
  have hrun : timerRunning { s with heldMarks := s.heldMarks.tail } = true := (timerRunning_iff _).mpr ⟨hinit, hsched⟩
  exact ⟨tick_turns _ _, tick_heldMarks _ _, tick_tpend_of_running _ _ hrun, tick_ticks _ _⟩

end Sys2Proof.Machine
end

section
/-! The proof of the statement on the one hang of the block (70_reset_and_hazards.md R203): a waiting SWAP whose tick source
has stopped. -/

namespace Sys2Proof.Machine

/-- The state of R203's hang: SWAP waits for a tick, and none is held, scheduled or to come. -/
structure Hung (s : State) : Prop where
  waits   : s.hphase = .swapWait
  early   : s.ticks.toNat < 2
  noHeld  : s.tpend = false
  stopped : s.tickSource = .stopped
  hosts   : ∀ turn ∈ s.turns, ∃ req, turn = .host req

/-- Using up an entry of the schedule does not end the hang. -/
theorem Hung.tail {s : State} (h : Hung s) : Hung { s with turns := s.turns.tail } :=
  { h with hosts := fun turn hmem => h.hosts turn (List.mem_of_mem_tail hmem) }

/-- After the schedule's end nothing happens: the host waits, and no TICK comes from a stopped source. -/
theorem Hung.defaultMove {s : State} (h : Hung s) : defaultMove s = .next s := by
  obtain ⟨_, hhost⟩ | ⟨_, _, hticking, _⟩ | ⟨_, _, hnothing⟩ := defaultMove_cases s
  · exact hhost.trans (hostMove_of_waiting false h.waits)
  · simp [h.stopped] at hticking
  · exact hnothing

/-- A step of the hang takes the schedule's next entry, if there is one, and changes nothing else. -/
theorem Hung.step {s : State} (h : Hung s) : step s = .next { s with turns := s.turns.tail } := by
  have hdue : swapDue s = false := by simp [Bool.eq_false_iff, swapDue_iff, h.early]
  have hheld : pendingServed s = false := by simp [pendingServed, h.noHeld]
  cases ht : s.turns with
  | nil =>
    have hsame : { s with turns := [] } = s := by rw [← ht]
    rw [List.tail_nil, hsame]
    exact (step_of_noTurns hdue hheld ht).trans h.defaultMove
  | cons turn ts =>
    obtain ⟨req, rfl⟩ := h.hosts turn (by simp [ht])
    rw [step_of_hostTurn hdue hheld ht]
    exact hostMove_of_waiting (s := { s with turns := ts }) req h.waits

/-- A run of the hang, of any length, takes that many entries of the schedule and changes nothing else. -/
theorem Hung.run {s : State} (h : Hung s) (k : Nat) :
    Host.Core.run core k s = .next { s with turns := s.turns.drop k } := by
  induction k generalizing s with
  | zero => rfl
  | succ k ih => rw [run_of_step k h.step, ih h.tail, List.drop_tail]

/-- Settles O11: the hypotheses are the hang's, which every step keeps. -/
theorem swapHangsWithoutTicks : Obligations.SwapHangsWithoutTicks :=
  fun _ hwait hearly hheld hstopped hhosts => Hung.run ⟨hwait, hearly, hheld, hstopped, hhosts⟩

end Sys2Proof.Machine
end
